-- ==== Sys2Proof/Word.lean ====
section
/-! DEFINITION. The word types of the part: bytes of its frames, ticks, and the numbers that name its records. -/

namespace Sys2Proof

/-- A byte of a Floor Link or trunk frame (spec/01, Section 1.9). -/
abbrev Byte := BitVec 8

/-- A value of the tick counter, counted modulo 2^32 (R12). -/
abbrev Tick := BitVec 32

/-- An enqueue stamp, counted modulo 2^32 (R62). -/
abbrev Stamp := BitVec 32

/-- A lot number; 0 stands for no lot (R56). -/
abbrev LotNo := BitVec 32

/-- A product number; 0 names no product (R41). -/
abbrev ProductNo := BitVec 16

/-- A station trunk T0 to T3 (spec/02). -/
abbrev TrunkNo := Fin 4

/-- A station's position on its trunk: the station address 1..8 less 1 (spec/02). -/
abbrev AddrIx := Fin 8

/-- A station place 0..31 (Section 2.2). -/
abbrev Place := Fin 32

/-- A cell number 0..15 (Section 5.1). -/
abbrev CellNo := Fin 16

/-- A program slot 0..7 of a tester (Section 6.1). -/
abbrev SlotNo := Fin 8

/-- A bin 0..15 (spec/00, Terms). -/
abbrev Bin := Fin 16

/-- The elapsed time since a recorded tick: (now - since) modulo 2^32 (R12). -/
def elapsed (now since : Tick) : Nat := (now - since).toNat

end Sys2Proof
end

