-- ==== Sys2Proof/Config.lean ====
section
/-! DEFINITION. What the part fixes (sizes, codes of identification) and the free values: values the spec leaves open. -/

namespace Sys2Proof.Config

/-- R17: the part code of IDENTIFY. -/
def partCode : Nat := 0x4F24
/-- R17: the silicon revision of IDENTIFY. -/
def siliconRevision : Nat := 3
/-- Section 1.1: the sync byte. -/
def syncByte : Byte := 0xA5
/-- R1: the smallest and largest length a frame may show. -/
def minLength : Nat := 2
/-- R1: the largest length a frame may show. -/
def maxLength : Nat := 1026
/-- R6: the replies the reply list holds, counting the one being sent. -/
def replyRoom : Nat := 4
/-- R8: the records the event queue holds. -/
def eventRoom : Nat := 64
/-- R8: the value at which the discard count stays. -/
def discardMax : Nat := 255
/-- R9: the records one FETCH EVENTS returns at most. -/
def fetchMax : Nat := 8
/-- R18: the longest report and the longest command. -/
def reportMax : Nat := 48
/-- Section 2.4: the entries of the alias table. -/
def aliasRoom : Nat := 24
/-- Section 3.1: the entries of the catalog. -/
def catalogRoom : Nat := 16
/-- Section 4.1: the records of the lot table. -/
def lotRoom : Nat := 64
/-- R72: the lot numbers one LIST LOTS returns at most. -/
def listMax : Nat := 16
/-- R60: the largest start quantity. -/
def startQuantityMax : Nat := 250000
/-- R135: the largest count of devices. -/
def countMax : Nat := 16777215
/-- R149: the unit of a bin fraction. -/
def fractionUnit : Nat := 65536
/-- R171: the references the release queue holds. -/
def releaseRoom : Nat := 16
/-- R46: the revision past which a product is not activated. -/
def revisionMax : Nat := 65535
/-- R173: the release attempt count at which the lot is locked out. -/
def lockoutAttempts : Nat := 3
/-- R165: the retest count at which RETEST is refused. -/
def retestMax : Nat := 2
/-- R124: the setpoint distance where the commanded setpoint is absent. -/
def absentDistance : Nat := 4000

/-- FREE VALUE (log 6): the code by which READ STATION (R28) shows a command category; 0 internal, 1 STOP, 2
pass-through are the ARGUMENTS of this value, not the codes: the spec gives no code. -/
opaque categoryCode : Nat → Byte

/-- FREE VALUE (log 6): the code by which READ TESTER (R116) shows the plan of a readiness request; the argument
numbers the rows of R111's table. -/
opaque planCode : Nat → Byte

/-- FREE VALUE (log 7): the kind of the reply to a frame whose kind is 0x80 or above (R4, R5): its kind plus 0x80 is
no byte. -/
opaque highReplyKind : Byte → Byte

/-- FREE VALUE (log 8): the release attempt count that RELEASE_REFUSED carries for a lot number that names no record
(R172, Section 11.5). -/
opaque refusedCountNoLot : LotNo → Byte

end Sys2Proof.Config
end

