-- ==== Sys2Proof/Syntax.lean ====
section
/-! DEFINITION. The commands of the part: one constructor of `Instr` for each row of spec/opcode_table.json. -/

namespace Sys2Proof

/-- R16: the two causes of a full reset. -/
inductive ResetCause where
  | powerOn
  | resetPin
  deriving DecidableEq, Repr

/-- R13: the ten fields of SET POLICY as they travel, in the order of the table in Section 1.6. -/
structure RawPolicy where
  lookahead : Byte
  ageStep : BitVec 16
  setupTimeout : BitVec 16
  commandTimeout : BitVec 16
  loadTimeout : BitVec 16
  stopTimeout : BitVec 16
  recoveryTime : BitVec 16
  answerWindow : Byte
  roundGap : Byte
  openPass : Byte
  deriving DecidableEq, Repr

/-- Section 3.2: one step of STAGE PRODUCT as it travels (14 bytes). -/
structure RawStep where
  setpoint : BitVec 16
  window : BitVec 16
  soak : BitVec 16
  kit : Byte
  programId : BitVec 16
  programRevision : Byte
  check : BitVec 32
  deriving DecidableEq, Repr

/-- Section 3.2: the payload of STAGE PRODUCT as it travels; the step count is the number of steps. -/
structure RawVersion where
  product : ProductNo
  good : Vector Byte 16
  margins : Vector (BitVec 32) 16
  gain : Byte
  shift : Byte
  sampleMin : BitVec 16
  yieldFloor : BitVec 16
  learnMin : Byte
  lossAllowance : BitVec 16
  enables : Vector Byte 6
  requireLearned : Byte
  steps : List RawStep
  deriving DecidableEq, Repr

/-- The commands. A request carries its tag first and then its payload fields in the order and widths of its rule; a
byte row carries the byte that arrives; the other rows name the trunk, place or cell they happen at. -/
inductive Instr where
  -- the receiver (R1, R2, R4, R5, R6)
  | frameStart (b : Byte)
  | byteGathered (b : Byte)
  | lengthDiscard (b : Byte)
  | interByteGapExpiry
  | checkFailed (b : Byte)
  | frameReceived (b : Byte)
  | busy (b : Byte)
  | replyListFullDrop (b : Byte)
  | replySent
  -- reset and time (R12, R16)
  | fullReset (cause : ResetCause)
  | resetEnd
  | tick
  -- Chapter 1 requests
  | identify (tag : Byte)
  | fetchEvents (tag : Byte)
  | setAttention (tag : Byte) (fields : Vector Byte 7)
  | setPolicy (tag : Byte) (fields : RawPolicy)
  | commitPolicy (tag : Byte)
  | readPolicy (tag : Byte)
  -- trunks (R18 to R32)
  | pollSent (t : TrunkNo)
  | roundGapExpiry (t : TrunkNo)
  | answerTaken (t : TrunkNo) (bytes : List Byte)
  | pollMiss (t : TrunkNo)
  | commandDeadlineExpiry (p : Place)
  | lateEndWaitExpiry (p : Place)
  -- Chapter 2 requests
  | enrollStation (tag trunk address kind : Byte)
  | retireStation (tag al : Byte)
  | readStation (tag al : Byte)
  | defineAlias (tag al answering : Byte) (places : List Byte)
  | deleteAlias (tag al : Byte)
  | readAlias (tag al : Byte)
  | stationPass (tag al trunk address : Byte) (command : List Byte)
  -- Chapter 3 requests
  | stageProduct (tag : Byte) (version : RawVersion)
  | activateProduct (tag : Byte) (product : ProductNo)
  | discardStaged (tag : Byte) (product : ProductNo)
  | deleteProduct (tag : Byte) (product : ProductNo)
  | readProduct (tag : Byte) (product : ProductNo) (selector : Byte)
  | setBaseline (tag : Byte) (product : ProductNo) (step : Byte) (count : BitVec 16) (values : Vector (BitVec 32) 16)
  | readBaseline (tag : Byte) (product : ProductNo) (step : Byte)
  -- Chapter 4 requests
  | createLot (tag : Byte) (lot : LotNo) (product : ProductNo) (quantity : BitVec 32) (priority : Byte) (ticket : BitVec 32)
  | setPriority (tag : Byte) (lot : LotNo) (priority : Byte)
  | readLot (tag : Byte) (lot : LotNo) (selector : Byte)
  | listLots (tag filter start : Byte)
  | purgeLot (tag : Byte) (lot : LotNo)
  -- Chapter 5 requests and cell timers
  | dockCell (tag cell handlerAlias testerAlias : Byte)
  | undockCell (tag cell : Byte)
  | readCell (tag cell : Byte)
  | resetCell (tag cell : Byte)
  | recoveryTimerExpiry (c : CellNo)
  | setupExpired (c : CellNo)
  | soakDeadlineExpiry (c : CellNo)
  | stopExpired (c : CellNo)
  -- Chapter 6 requests
  | loadProgram (tag al slot : Byte) (programId : BitVec 16) (programRevision : Byte) (check : BitVec 32)
  | eraseSlot (tag al slot : Byte)
  | verifySlot (tag al slot : Byte)
  | qualifySlot (tag al slot : Byte)
  | setLockOverride (tag al value : Byte)
  | purgeTester (tag al : Byte)
  | setProtectFloor (tag al value : Byte)
  | clearTesterErrors (tag al : Byte)
  | readTester (tag al : Byte)
  -- Chapter 7
  | dispatchEvaluation
  | agePromotion
  | cancelAssignment (tag : Byte) (lot : LotNo)
  | readQueue (tag : Byte)
  -- Chapters 8, 10, 11 requests
  | readInsertion (tag : Byte) (lot : LotNo) (step : Byte)
  | holdLot (tag : Byte) (lot : LotNo)
  | dispose (tag : Byte) (lot : LotNo) (cause verdict : Byte)
  | readHolds (tag : Byte) (lot : LotNo)
  | releaseLot (tag : Byte) (lot : LotNo) (ticket : BitVec 32)
  | shipConfirm (tag : Byte) (lot : LotNo)
  | readReleaseQueue (tag : Byte)
  deriving DecidableEq, Repr

end Sys2Proof
end

