-- ==== Sys2Proof/WellFormed.lean ====
section
/-! DEFINITION. Which commands can stand on the part's pins: the checks on the operands that the types leave open. -/

namespace Sys2Proof

/-- Section 1.9: a Floor Link payload is at most 1024 bytes. DEFINE ALIAS is 3 + n bytes with a one-byte count. -/
def wfPlaces (places : List Byte) : Bool := places.length ≤ 255

/-- R38: STATION PASS is 4 + n bytes with a one-byte length n. -/
def wfPassBytes (command : List Byte) : Bool := command.length ≤ 255

/-- Section 3.2: STAGE PRODUCT is 99 + 14 n bytes with a one-byte step count n, in a payload of at most 1024 bytes. -/
def wfVersion (v : RawVersion) : Bool := 99 + 14 * v.steps.length ≤ 1024

/-- Section 1.9: an answer is its address, flags and length bytes, a report of at most 48 bytes and a two-byte check. -/
def wfAnswer (bytes : List Byte) : Bool := 5 ≤ bytes.length && bytes.length ≤ 53

/-- A command that can stand on the pins. -/
def Instr.wellFormed : Instr → Bool
  | .defineAlias _ _ _ places => wfPlaces places
  | .stationPass _ _ _ _ command => wfPassBytes command
  | .stageProduct _ v => wfVersion v
  | .answerTaken _ bytes => wfAnswer bytes
  | .frameStart _ | .byteGathered _ | .lengthDiscard _ | .interByteGapExpiry | .checkFailed _ | .frameReceived _
  | .busy _ | .replyListFullDrop _ | .replySent | .fullReset _ | .resetEnd | .tick | .identify _ | .fetchEvents _
  | .setAttention _ _ | .setPolicy _ _ | .commitPolicy _ | .readPolicy _ | .pollSent _ | .roundGapExpiry _
  | .pollMiss _ | .commandDeadlineExpiry _ | .lateEndWaitExpiry _ | .enrollStation _ _ _ _ | .retireStation _ _
  | .readStation _ _ | .deleteAlias _ _ | .readAlias _ _ | .activateProduct _ _ | .discardStaged _ _
  | .deleteProduct _ _ | .readProduct _ _ _ | .setBaseline _ _ _ _ _ | .readBaseline _ _ _ | .createLot _ _ _ _ _ _
  | .setPriority _ _ _ | .readLot _ _ _ | .listLots _ _ _ | .purgeLot _ _ | .dockCell _ _ _ _ | .undockCell _ _
  | .readCell _ _ | .resetCell _ _ | .recoveryTimerExpiry _ | .setupExpired _ | .soakDeadlineExpiry _
  | .stopExpired _ | .loadProgram _ _ _ _ _ _ | .eraseSlot _ _ _ | .verifySlot _ _ _ | .qualifySlot _ _ _
  | .setLockOverride _ _ _ | .purgeTester _ _ | .setProtectFloor _ _ _ | .clearTesterErrors _ _ | .readTester _ _
  | .dispatchEvaluation | .agePromotion | .cancelAssignment _ _ | .readQueue _ | .readInsertion _ _ _ | .holdLot _ _
  | .dispose _ _ _ _ | .readHolds _ _ | .releaseLot _ _ _ | .shipConfirm _ _ | .readReleaseQueue _ => true

end Sys2Proof
end

