-- ==== Sys2Proof/Decode.lean ====
section
/-! DEFINITION. Reading and writing requests: the kind values of R3, the payload size that fits each request (R4) and the request a
payload spells; and the command a table word spells (none: no row of the table carries bits). -/

namespace Sys2Proof

/-- R3: the kind value of a request's row; none for the rows that are no request. -/
def Instr.requestKind : Instr → Option Byte
  | .identify _ => some 0x01
  | .fetchEvents _ => some 0x02
  | .setAttention _ _ => some 0x03
  | .setPolicy _ _ => some 0x04
  | .commitPolicy _ => some 0x05
  | .readPolicy _ => some 0x06
  | .enrollStation _ _ _ _ => some 0x10
  | .retireStation _ _ => some 0x11
  | .readStation _ _ => some 0x12
  | .defineAlias _ _ _ _ => some 0x13
  | .deleteAlias _ _ => some 0x14
  | .readAlias _ _ => some 0x15
  | .stationPass _ _ _ _ _ => some 0x16
  | .stageProduct _ _ => some 0x20
  | .activateProduct _ _ => some 0x21
  | .discardStaged _ _ => some 0x22
  | .deleteProduct _ _ => some 0x23
  | .readProduct _ _ _ => some 0x24
  | .setBaseline _ _ _ _ _ => some 0x25
  | .readBaseline _ _ _ => some 0x26
  | .createLot _ _ _ _ _ _ => some 0x30
  | .setPriority _ _ _ => some 0x31
  | .readLot _ _ _ => some 0x32
  | .listLots _ _ _ => some 0x33
  | .purgeLot _ _ => some 0x34
  | .dockCell _ _ _ _ => some 0x38
  | .undockCell _ _ => some 0x39
  | .readCell _ _ => some 0x3A
  | .resetCell _ _ => some 0x3B
  | .loadProgram _ _ _ _ _ _ => some 0x40
  | .eraseSlot _ _ _ => some 0x41
  | .verifySlot _ _ _ => some 0x42
  | .qualifySlot _ _ _ => some 0x43
  | .setLockOverride _ _ _ => some 0x44
  | .purgeTester _ _ => some 0x45
  | .setProtectFloor _ _ _ => some 0x46
  | .clearTesterErrors _ _ => some 0x47
  | .readTester _ _ => some 0x48
  | .cancelAssignment _ _ => some 0x50
  | .readQueue _ => some 0x51
  | .readInsertion _ _ _ => some 0x58
  | .holdLot _ _ => some 0x60
  | .dispose _ _ _ _ => some 0x61
  | .readHolds _ _ => some 0x62
  | .releaseLot _ _ _ => some 0x68
  | .shipConfirm _ _ => some 0x69
  | .readReleaseQueue _ => some 0x6A
  | .frameStart _ | .byteGathered _ | .lengthDiscard _ | .interByteGapExpiry | .checkFailed _ | .frameReceived _
  | .busy _ | .replyListFullDrop _ | .replySent | .fullReset _ | .resetEnd | .tick | .pollSent _ | .roundGapExpiry _
  | .answerTaken _ _ | .pollMiss _ | .commandDeadlineExpiry _ | .lateEndWaitExpiry _ | .recoveryTimerExpiry _
  | .setupExpired _ | .soakDeadlineExpiry _ | .stopExpired _ | .dispatchEvaluation | .agePromotion => none

/-- R4: the payload size that fits the request of a kind value; none where the kind is no request's (R3). A payload with a
count fits at the size the count implies. -/
def fittingSize (kind : Byte) (payload : List Byte) : Option Nat :=
  match kind.toNat with
  | 0x01 | 0x02 | 0x05 | 0x06 | 0x51 | 0x6A => some 0
  | 0x11 | 0x12 | 0x14 | 0x15 | 0x39 | 0x3A | 0x3B | 0x45 | 0x47 | 0x48 => some 1
  | 0x21 | 0x22 | 0x23 | 0x33 | 0x41 | 0x42 | 0x43 | 0x44 | 0x46 => some 2
  | 0x10 | 0x24 | 0x26 | 0x38 => some 3
  | 0x34 | 0x50 | 0x60 | 0x62 | 0x69 => some 4
  | 0x31 | 0x32 | 0x58 => some 5
  | 0x61 => some 6
  | 0x03 => some 7
  | 0x68 => some 8
  | 0x40 => some 9
  | 0x30 => some 15
  | 0x04 => some 16
  | 0x25 => some 69
  | 0x13 => some (3 + (payload.getD 1 0).toNat)
  | 0x16 => some (4 + (payload.getD 3 0).toNat)
  | 0x20 => some (99 + 14 * (payload.getD 2 0).toNat)
  | _ => none

/-- The byte of a payload at an offset. -/
def byteAt (payload : List Byte) (i : Nat) : Byte := payload.getD i 0
/-- The two-byte field at an offset, most significant byte first. -/
def wordAt (payload : List Byte) (i : Nat) : BitVec 16 := byteAt payload i ++ byteAt payload (i + 1)
/-- The four-byte field at an offset, most significant byte first. -/
def longAt (payload : List Byte) (i : Nat) : BitVec 32 :=
  (wordAt payload i ++ wordAt payload (i + 2) : BitVec (16 + 16))

/-- R13: the ten policy fields of a SET POLICY payload. -/
def readPolicyFields (p : List Byte) : RawPolicy :=
  { lookahead := byteAt p 0, ageStep := wordAt p 1, setupTimeout := wordAt p 3, commandTimeout := wordAt p 5
    loadTimeout := wordAt p 7, stopTimeout := wordAt p 9, recoveryTime := wordAt p 11, answerWindow := byteAt p 13
    roundGap := byteAt p 14, openPass := byteAt p 15 }

/-- Section 3.2: the step of a STAGE PRODUCT payload at an offset. -/
def readStepFields (p : List Byte) (i : Nat) : RawStep :=
  { setpoint := wordAt p i, window := wordAt p (i + 2), soak := wordAt p (i + 4), kit := byteAt p (i + 6)
    programId := wordAt p (i + 7), programRevision := byteAt p (i + 9), check := longAt p (i + 10) }

/-- Section 3.2: the version of a STAGE PRODUCT payload. -/
def readVersionFields (p : List Byte) : RawVersion :=
  { product := wordAt p 0
    good := Vector.ofFn fun i => byteAt p (3 + i.val)
    margins := Vector.ofFn fun i => longAt p (19 + 4 * i.val)
    gain := byteAt p 83, shift := byteAt p 84, sampleMin := wordAt p 85, yieldFloor := wordAt p 87
    learnMin := byteAt p 89, lossAllowance := wordAt p 90
    enables := Vector.ofFn fun i => byteAt p (92 + i.val)
    requireLearned := byteAt p 98
    steps := (List.range (byteAt p 2).toNat).map fun k => readStepFields p (99 + 14 * k) }

/-- The request a payload of fitting size spells, with its tag. -/
def readFields (kind tag : Byte) (p : List Byte) : Option Instr :=
  match kind.toNat with
  | 0x01 => some (.identify tag)
  | 0x02 => some (.fetchEvents tag)
  | 0x03 => some (.setAttention tag (Vector.ofFn fun i => byteAt p i.val))
  | 0x04 => some (.setPolicy tag (readPolicyFields p))
  | 0x05 => some (.commitPolicy tag)
  | 0x06 => some (.readPolicy tag)
  | 0x10 => some (.enrollStation tag (byteAt p 0) (byteAt p 1) (byteAt p 2))
  | 0x11 => some (.retireStation tag (byteAt p 0))
  | 0x12 => some (.readStation tag (byteAt p 0))
  | 0x13 => some (.defineAlias tag (byteAt p 0) (byteAt p 2) (p.drop 3))
  | 0x14 => some (.deleteAlias tag (byteAt p 0))
  | 0x15 => some (.readAlias tag (byteAt p 0))
  | 0x16 => some (.stationPass tag (byteAt p 0) (byteAt p 1) (byteAt p 2) (p.drop 4))
  | 0x20 => some (.stageProduct tag (readVersionFields p))
  | 0x21 => some (.activateProduct tag (wordAt p 0))
  | 0x22 => some (.discardStaged tag (wordAt p 0))
  | 0x23 => some (.deleteProduct tag (wordAt p 0))
  | 0x24 => some (.readProduct tag (wordAt p 0) (byteAt p 2))
  | 0x25 => some (.setBaseline tag (wordAt p 0) (byteAt p 2) (wordAt p 3) (Vector.ofFn fun i => longAt p (5 + 4 * i.val)))
  | 0x26 => some (.readBaseline tag (wordAt p 0) (byteAt p 2))
  | 0x30 => some (.createLot tag (longAt p 0) (wordAt p 4) (longAt p 6) (byteAt p 10) (longAt p 11))
  | 0x31 => some (.setPriority tag (longAt p 0) (byteAt p 4))
  | 0x32 => some (.readLot tag (longAt p 0) (byteAt p 4))
  | 0x33 => some (.listLots tag (byteAt p 0) (byteAt p 1))
  | 0x34 => some (.purgeLot tag (longAt p 0))
  | 0x38 => some (.dockCell tag (byteAt p 0) (byteAt p 1) (byteAt p 2))
  | 0x39 => some (.undockCell tag (byteAt p 0))
  | 0x3A => some (.readCell tag (byteAt p 0))
  | 0x3B => some (.resetCell tag (byteAt p 0))
  | 0x40 => some (.loadProgram tag (byteAt p 0) (byteAt p 1) (wordAt p 2) (byteAt p 4) (longAt p 5))
  | 0x41 => some (.eraseSlot tag (byteAt p 0) (byteAt p 1))
  | 0x42 => some (.verifySlot tag (byteAt p 0) (byteAt p 1))
  | 0x43 => some (.qualifySlot tag (byteAt p 0) (byteAt p 1))
  | 0x44 => some (.setLockOverride tag (byteAt p 0) (byteAt p 1))
  | 0x45 => some (.purgeTester tag (byteAt p 0))
  | 0x46 => some (.setProtectFloor tag (byteAt p 0) (byteAt p 1))
  | 0x47 => some (.clearTesterErrors tag (byteAt p 0))
  | 0x48 => some (.readTester tag (byteAt p 0))
  | 0x50 => some (.cancelAssignment tag (longAt p 0))
  | 0x51 => some (.readQueue tag)
  | 0x58 => some (.readInsertion tag (longAt p 0) (byteAt p 4))
  | 0x60 => some (.holdLot tag (longAt p 0))
  | 0x61 => some (.dispose tag (longAt p 0) (byteAt p 4) (byteAt p 5))
  | 0x62 => some (.readHolds tag (longAt p 0))
  | 0x68 => some (.releaseLot tag (longAt p 0) (longAt p 4))
  | 0x69 => some (.shipConfirm tag (longAt p 0))
  | 0x6A => some (.readReleaseQueue tag)
  | _ => none

/-- R4: what the interface finds in a frame it examines. -/
inductive Examined where
  | unknown
  | malformed
  | request (i : Instr)
  deriving DecidableEq, Repr

/-- R4: the kind and the payload size of a frame are examined. -/
def examine (kind tag : Byte) (payload : List Byte) : Examined :=
  match fittingSize kind payload with
  | none => .unknown
  | some n =>
    if payload.length = n then
      match readFields kind tag payload with
      | some i => .request i
      | none => .unknown
    else .malformed

/-! ### Writing requests -/

/-- A two-byte field, most significant byte first. -/
def splitWord (x : BitVec 16) : List Byte := [x.extractLsb' 8 8, x.extractLsb' 0 8]
/-- A four-byte field, most significant byte first. -/
def splitLong (x : BitVec 32) : List Byte := splitWord (x.extractLsb' 16 16) ++ splitWord (x.extractLsb' 0 16)
/-- Sixteen four-byte fields, in bin order. -/
def splitLongs (v : Vector (BitVec 32) 16) : List Byte := v.toList.flatMap splitLong

/-- R13: the payload of SET POLICY. -/
def RawPolicy.payload (p : RawPolicy) : List Byte :=
  [p.lookahead] ++ splitWord p.ageStep ++ splitWord p.setupTimeout ++ splitWord p.commandTimeout ++ splitWord p.loadTimeout ++
    splitWord p.stopTimeout ++ splitWord p.recoveryTime ++ [p.answerWindow, p.roundGap, p.openPass]

/-- Section 3.2: a step in the payload of STAGE PRODUCT. -/
def RawStep.payload (x : RawStep) : List Byte :=
  splitWord x.setpoint ++ splitWord x.window ++ splitWord x.soak ++ [x.kit] ++ splitWord x.programId ++ [x.programRevision] ++
    splitLong x.check

/-- Section 3.2: the payload of STAGE PRODUCT. -/
def RawVersion.payload (v : RawVersion) : List Byte :=
  splitWord v.product ++ [BitVec.ofNat 8 v.steps.length] ++ v.good.toList ++ splitLongs v.margins ++ [v.gain, v.shift] ++
    splitWord v.sampleMin ++ splitWord v.yieldFloor ++ [v.learnMin] ++ splitWord v.lossAllowance ++ v.enables.toList ++
    [v.requireLearned] ++ v.steps.flatMap RawStep.payload

/-- The payload by which a host sends a request, field by field in the order of its rule; a count is the length of the list
it counts. The rows that are no request have none. -/
def Instr.payload : Instr → List Byte
  | .identify _ | .fetchEvents _ | .commitPolicy _ | .readPolicy _ | .readQueue _ | .readReleaseQueue _ => []
  | .setAttention _ fields => fields.toList
  | .setPolicy _ fields => fields.payload
  | .enrollStation _ trunk address kind => [trunk, address, kind]
  | .retireStation _ al => [al]
  | .readStation _ al => [al]
  | .defineAlias _ al answering places => [al, BitVec.ofNat 8 places.length, answering] ++ places
  | .deleteAlias _ al => [al]
  | .readAlias _ al => [al]
  | .stationPass _ al trunk address command => [al, trunk, address, BitVec.ofNat 8 command.length] ++ command
  | .stageProduct _ version => version.payload
  | .activateProduct _ product => splitWord product
  | .discardStaged _ product => splitWord product
  | .deleteProduct _ product => splitWord product
  | .readProduct _ product selector => splitWord product ++ [selector]
  | .setBaseline _ product step count values => splitWord product ++ [step] ++ splitWord count ++ splitLongs values
  | .readBaseline _ product step => splitWord product ++ [step]
  | .createLot _ lot product quantity priority ticket =>
    splitLong lot ++ splitWord product ++ splitLong quantity ++ [priority] ++ splitLong ticket
  | .setPriority _ lot priority => splitLong lot ++ [priority]
  | .readLot _ lot selector => splitLong lot ++ [selector]
  | .listLots _ filter start => [filter, start]
  | .purgeLot _ lot => splitLong lot
  | .dockCell _ cell handlerAlias testerAlias => [cell, handlerAlias, testerAlias]
  | .undockCell _ cell => [cell]
  | .readCell _ cell => [cell]
  | .resetCell _ cell => [cell]
  | .loadProgram _ al slot programId programRevision check =>
    [al, slot] ++ splitWord programId ++ [programRevision] ++ splitLong check
  | .eraseSlot _ al slot => [al, slot]
  | .verifySlot _ al slot => [al, slot]
  | .qualifySlot _ al slot => [al, slot]
  | .setLockOverride _ al value => [al, value]
  | .purgeTester _ al => [al]
  | .setProtectFloor _ al value => [al, value]
  | .clearTesterErrors _ al => [al]
  | .readTester _ al => [al]
  | .cancelAssignment _ lot => splitLong lot
  | .readInsertion _ lot step => splitLong lot ++ [step]
  | .holdLot _ lot => splitLong lot
  | .dispose _ lot cause verdict => splitLong lot ++ [cause, verdict]
  | .readHolds _ lot => splitLong lot
  | .releaseLot _ lot ticket => splitLong lot ++ splitLong ticket
  | .shipConfirm _ lot => splitLong lot
  | .frameStart _ | .byteGathered _ | .lengthDiscard _ | .interByteGapExpiry | .checkFailed _ | .frameReceived _
  | .busy _ | .replyListFullDrop _ | .replySent | .fullReset _ | .resetEnd | .tick | .pollSent _ | .roundGapExpiry _
  | .answerTaken _ _ | .pollMiss _ | .commandDeadlineExpiry _ | .lateEndWaitExpiry _ | .recoveryTimerExpiry _
  | .setupExpired _ | .soakDeadlineExpiry _ | .stopExpired _ | .dispatchEvaluation | .agePromotion => []

/-- The tag of a request; 0 for the rows that carry none. -/
def Instr.tag : Instr → Byte
  | .identify tag | .fetchEvents tag | .setAttention tag _ | .setPolicy tag _ | .commitPolicy tag | .readPolicy tag
  | .enrollStation tag _ _ _ | .retireStation tag _ | .readStation tag _ | .defineAlias tag _ _ _ | .deleteAlias tag _
  | .readAlias tag _ | .stationPass tag _ _ _ _ | .stageProduct tag _ | .activateProduct tag _ | .discardStaged tag _
  | .deleteProduct tag _ | .readProduct tag _ _ | .setBaseline tag _ _ _ _ | .readBaseline tag _ _
  | .createLot tag _ _ _ _ _ | .setPriority tag _ _ | .readLot tag _ _ | .listLots tag _ _ | .purgeLot tag _
  | .dockCell tag _ _ _ | .undockCell tag _ | .readCell tag _ | .resetCell tag _ | .loadProgram tag _ _ _ _ _
  | .eraseSlot tag _ _ | .verifySlot tag _ _ | .qualifySlot tag _ _ | .setLockOverride tag _ _ | .purgeTester tag _
  | .setProtectFloor tag _ _ | .clearTesterErrors tag _ | .readTester tag _ | .cancelAssignment tag _ | .readQueue tag
  | .readInsertion tag _ _ | .holdLot tag _ | .dispose tag _ _ _ | .readHolds tag _ | .releaseLot tag _ _
  | .shipConfirm tag _ | .readReleaseQueue tag => tag
  | .frameStart _ | .byteGathered _ | .lengthDiscard _ | .interByteGapExpiry | .checkFailed _ | .frameReceived _
  | .busy _ | .replyListFullDrop _ | .replySent | .fullReset _ | .resetEnd | .tick | .pollSent _ | .roundGapExpiry _
  | .answerTaken _ _ | .pollMiss _ | .commandDeadlineExpiry _ | .lateEndWaitExpiry _ | .recoveryTimerExpiry _
  | .setupExpired _ | .soakDeadlineExpiry _ | .stopExpired _ | .dispatchEvaluation | .agePromotion => 0

/-- The command a table word spells: spec/opcode_table.json gives no row any bits, so no word spells one. -/
def decodeTableWord (_nbits _w : Nat) : Option Instr := none

end Sys2Proof
end

