-- ==== Sys2Proof/Machine/State.lean ====
section
/-! DEFINITION. The state of the part as plain data: every record the spec names, the queue of waiting commands, and the
reset values. -/

namespace Sys2Proof.Machine

/-- The part stops with no fault: every request is answered or dropped (R4 to R7) and every event on a trunk, timer or
pin has an outcome. So there is no reason to name; safe. -/
inductive Fault where
  deriving DecidableEq, Repr

/-- Why a command has no meaning. -/
inductive Refusal where
  /-- Raised by `exec` for a row that has no meaning yet, naming its mnemonic; safe: the model stops. No arm raises it. -/
  | notModelled (mnemonic : String)
  deriving DecidableEq, Repr

/-! ### Floor Link Interface (Chapter 1) -/

/-- R12: a deadline, set at counter value `start` with a duration of `span` ticks. -/
structure Deadline where
  start : Tick
  span : Nat
  deriving DecidableEq, Repr

/-- R1: the receiver's three states. -/
inductive RxPhase where
  | hunt
  | header
  | body
  deriving DecidableEq, Repr

/-- R1: the receiver; the buffer holds the bytes of the frame gathered so far, the sync byte first. -/
structure Receiver where
  phase : RxPhase
  buffer : List Byte
  deriving DecidableEq, Repr

/-- R4, R5: the request being served; `deferred` is the answering member's place of a STATION PASS that waits (R38). -/
structure Serving where
  request : Instr
  deferred : Option Place
  deriving DecidableEq, Repr

/-- R6, R7: a reply that waits to be sent; the payload begins with the reply status. -/
structure Reply where
  kind : Byte
  tag : Byte
  payload : List Byte
  deriving DecidableEq, Repr

/-- Section 1.6: the ten fields of the floor policy. -/
structure Policy where
  lookahead : Nat
  ageStep : Nat
  setupTimeout : Nat
  commandTimeout : Nat
  loadTimeout : Nat
  stopTimeout : Nat
  recoveryTime : Nat
  answerWindow : Nat
  roundGap : Nat
  openPass : Bool
  deriving DecidableEq, Repr

/-- R10: the attention master enable and the six class enables. -/
structure Attention where
  master : Bool
  part : Bool
  station : Bool
  cell : Bool
  tester : Bool
  lot : Bool
  release : Bool
  deriving DecidableEq, Repr

/-! ### Event Queue -/

/-- Section 1.3: the classes of events. -/
inductive EventClass where
  | part
  | station
  | cell
  | tester
  | lot
  | release
  deriving DecidableEq, Repr

/-- Section 1.3: the event kinds, in the order of the event kinds table. -/
inductive EventKind where
  | resetDone
  | policyCommitted
  | stationOnline
  | stationLost
  | stationRestart
  | enrollFailed
  | strayReport
  | cellIdle
  | cellFaulted
  | kitNeeded
  | setupExpired
  | stopExpired
  | loadResult
  | eraseResult
  | verifyResult
  | purgeDone
  | assigned
  | assignmentCancelled
  | insertionStarted
  | insertionClosed
  | finding
  | holdRaised
  | holdDisposed
  | lotComplete
  | released
  | releaseRefused
  | recalled
  | shipped
  deriving DecidableEq, Repr

/-- Section 1.3: an event record; its class is that of its kind. -/
structure Event where
  kind : EventKind
  tick : Tick
  subject : BitVec 32
  detail : List Byte
  deriving DecidableEq, Repr

/-! ### Trunks and stations (Chapter 2) -/

/-- R19, R20: the poll whose answer window is open. `abandoned`: its place has left the enrolled states since. -/
structure PollOut where
  place : Place
  windowMs : Nat
  frame : List Byte
  abandoned : Bool
  deriving DecidableEq, Repr

/-- R19: a Trunk Controller. `gap` is the length in ms of the pause after a round, while it runs. -/
structure Trunk where
  position : Option AddrIx
  outstanding : Option PollOut
  gap : Option Nat
  deriving DecidableEq, Repr

inductive StationKind where
  | handler
  | tester
  deriving DecidableEq, Repr

inductive StationState where
  | absent
  | joining
  | online
  | lost
  deriving DecidableEq, Repr

/-- Section 2.2: the three categories of commands. -/
inductive Category where
  | internal
  | stop
  | pass
  deriving DecidableEq, Repr

/-- The four commands of a tester (Section 6.2). -/
inductive TesterOp where
  | load
  | erase
  | verify
  | select
  deriving DecidableEq, Repr

/-- Sections 2.3, 5.2, 6.2: the commands. `ref` of SET SETPOINT is the reference its offer was given (R29). -/
inductive Command where
  | setSetpoint (ref : Nat) (setpoint : Int)
  | startInsertion (number : Nat) (lot : LotNo) (step quantity : Nat)
  | stopSegment (number : Nat)
  | slotCommand (op : TesterOp) (slot : SlotNo) (programId programRevision : Nat)
  | pass (bytes : List Byte)
  deriving DecidableEq, Repr

/-- R30: the command in flight. -/
structure InFlight where
  command : Command
  sentAt : Tick
  deadline : Deadline
  deriving DecidableEq, Repr

/-- Section 2.2: a station record. `lateEnd` is the late end awaited with its deadline (R32). -/
structure Station where
  state : StationState
  kind : Option StationKind
  model : Option Nat
  firmware : Option Nat
  misses : Nat
  freshAck : Bool
  alarm : Bool
  queue : List Command
  inFlight : Option InFlight
  lateEnd : Option Deadline
  deriving DecidableEq, Repr

/-- Section 2.4: an alias entry; members in the order given. -/
structure AliasEntry where
  number : Byte
  members : List Place
  answering : Place
  deriving DecidableEq, Repr

/-! ### Products (Chapter 3) -/

/-- R44: a program identity. -/
structure ProgramId where
  id : Nat
  revision : Nat
  check : BitVec 32
  deriving DecidableEq, Repr

/-- Section 3.2: a route step as stored. -/
structure RouteStep where
  setpoint : Int
  window : Nat
  soak : Nat
  kit : Nat
  program : ProgramId
  deriving DecidableEq, Repr

/-- Section 3.2: the six hold enables. -/
structure HoldEnables where
  countOver : Bool
  tallyGap : Bool
  countShort : Bool
  tempExcursion : Bool
  binLimit : Bool
  yieldLow : Bool
  deriving DecidableEq, Repr

/-- Section 3.2: a version as stored. -/
structure Version where
  product : ProductNo
  good : Vector Bool 16
  margins : Vector Nat 16
  gain : Nat
  shift : Nat
  sampleMin : Nat
  yieldFloor : Nat
  learnMin : Nat
  lossAllowance : Nat
  enables : HoldEnables
  requireLearned : Bool
  steps : List RouteStep
  deriving DecidableEq, Repr

/-- Section 3.5: a baseline set. -/
structure Baseline where
  values : Vector Nat 16
  count : Nat
  deriving DecidableEq, Repr

/-- Section 3.1: a catalog entry; one baseline set for each step of the active version. -/
structure Product where
  number : ProductNo
  active : Option Version
  staged : Option Version
  revision : Nat
  baselines : List Baseline
  deriving DecidableEq, Repr

/-! ### Lots (Chapters 4, 8, 10, 11) -/

/-- Section 10.1: the cause kinds, in the order of their ranks 1 to 10. -/
inductive Cause where
  | operator
  | releaseLockout
  | cellFault
  | programMismatch
  | countOver
  | tallyGap
  | countShort
  | tempExcursion
  | binLimit
  | yieldLow
  deriving DecidableEq, Repr

/-- R159: a hold entry. -/
structure Hold where
  cause : Cause
  step : Nat
  tick : Tick
  bins : List Bin
  deriving DecidableEq, Repr

/-- R160: a finding of an insertion record. -/
structure Finding where
  cause : Cause
  firstTick : Tick
  bins : List Bin
  deriving DecidableEq, Repr

/-- Section 4.6: the outcomes of an insertion record. -/
inductive InsOutcome where
  | notRun
  | running
  | partialHeld
  | completeHeld
  | completeClean
  deriving DecidableEq, Repr

/-- Section 4.6: an insertion record; findings and waivers stand in rank order. -/
structure Insertion where
  outcome : InsOutcome
  input : Option Nat
  tested : Nat
  good : Nat
  bins : Vector Nat 16
  extremes : Option (Int × Int)
  lastSeq : Byte
  number : Option Nat
  segments : Nat
  retests : Nat
  findings : List Finding
  waivers : List Cause
  yieldAtClose : Option Nat
  deriving DecidableEq, Repr

/-- Section 4.2: the states of a lot. -/
inductive LotState where
  | waiting
  | assigned
  | running
  | complete
  | released
  | shipped
  | scrapped
  deriving DecidableEq, Repr

/-- R174: the release record; one closing yield for each step run. -/
structure ReleaseRecord where
  tick : Tick
  shipQuantity : Nat
  yields : List (Option Nat)
  deriving DecidableEq, Repr

/-- Section 4.2: a lot record; the hold set stands in rank order. -/
structure Lot where
  number : LotNo
  product : ProductNo
  revision : Nat
  snapshot : Version
  startQuantity : Nat
  ticket : BitVec 32
  priority : Nat
  state : LotState
  currentStep : Nat
  stamp : Stamp
  enqueueTick : Tick
  cell : Option CellNo
  records : List Insertion
  holds : List Hold
  attempts : Nat
  shipQuantity : Option Nat
  release : Option ReleaseRecord
  deriving DecidableEq, Repr

/-! ### Cells (Chapter 5) -/

inductive CellState where
  | empty
  | idle
  | setup
  | preparing
  | running
  | stopping
  | faulted
  deriving DecidableEq, Repr

/-- Section 5.1: the fields present while a cell is docked. -/
structure Dock where
  handler : Place
  handlerAlias : Byte
  tester : Place
  testerAlias : Byte
  kit : Nat
  recovery : Nat
  deriving DecidableEq, Repr

/-- Section 5.1: the lot and step a cell works on. -/
structure Work where
  lot : LotNo
  step : Nat
  deriving DecidableEq, Repr

/-- R87: a soak deadline and whether it has expired. -/
structure SoakDeadline where
  deadline : Deadline
  expired : Bool
  deriving DecidableEq, Repr

/-- Section 5.1: the preparation record. -/
structure Prep where
  setpointDone : Bool
  programDone : Bool
  soakStart : Option Tick
  soakDeadline : Option SoakDeadline
  setpointCommand : Option Nat
  deriving DecidableEq, Repr

/-- Section 5.1: a cell record. `recoveryDue` is the model's own: the recovery timer of the IDLE cell has reached 0 at an
increment whose RECOVERY_TIMER_EXPIRY has not been taken (log 4). -/
structure Cell where
  state : CellState
  dock : Option Dock
  commanded : Option Int
  lastTemp : Option (Int × Tick)
  work : Option Work
  prep : Option Prep
  insertion : Option Nat
  phaseDeadline : Option Deadline
  recoveryDue : Bool
  deriving DecidableEq, Repr

/-! ### Testers (Chapter 6) -/

inductive OpState where
  | idle
  | loading
  | erasing
  | verifying
  | purging
  deriving DecidableEq, Repr

inductive Origin where
  | host
  | dispatch
  deriving DecidableEq, Repr

/-- Section 6.1: the operation. `expected` is the identity a load expects (R103); `erased` and `handled` serve a purge. -/
structure Operation where
  slot : SlotNo
  origin : Origin
  reported : Bool
  members : Nat
  expected : ProgramId
  erased : Nat
  handled : Option SlotNo
  deriving DecidableEq, Repr

/-- R98: the command outstanding. -/
structure OutCommand where
  op : TesterOp
  slot : SlotNo
  awaited : Bool
  deriving DecidableEq, Repr

/-- R98, R112: the next command; `afterOp`: an operation ran on the tester as it began to wait. -/
structure NextCommand where
  op : TesterOp
  slot : SlotNo
  afterOp : Bool
  deriving DecidableEq, Repr

/-- R111: the rows of the readiness plan table, each with its slot; plan none is the absent plan. -/
inductive Plan where
  | select (slot : SlotNo)
  | verify (slot : SlotNo)
  | load (slot : SlotNo)
  | eraseLoad (slot : SlotNo)
  deriving DecidableEq, Repr

/-- R112: a readiness request; the stage is the command of the plan it is at. -/
structure Readiness where
  cell : CellNo
  program : ProgramId
  plan : Plan
  stage : TesterOp
  deriving DecidableEq, Repr

inductive SlotState where
  | empty
  | loading
  | erasing
  | verified
  | stale
  | fault
  deriving DecidableEq, Repr

/-- Section 6.1: a slot record; `program` is the program id and revision. -/
structure Slot where
  state : SlotState
  program : Option (Nat × Nat)
  check : Option (BitVec 32)
  locked : Bool
  lastSelected : Option Tick
  deriving DecidableEq, Repr

/-- Section 6.1: a tester record. -/
structure Tester where
  opState : OpState
  operation : Option Operation
  loadError : Bool
  eraseError : Bool
  lockOverride : Bool
  protectFloor : Nat
  floorWritten : Bool
  selected : Option SlotNo
  outstanding : Option OutCommand
  next : Option NextCommand
  readiness : Option Readiness
  slots : Vector Slot 8
  deriving DecidableEq, Repr

/-! ### The state -/

/-- The state of the part. `pending` is the queue of commands that wait (log 1). -/
structure State where
  pending : List Instr
  inReset : Option ResetCause
  resetCause : ResetCause
  receiver : Receiver
  serving : Option Serving
  replies : List Reply
  policy : Policy
  committed : Bool
  attention : Attention
  events : List Event
  discards : Nat
  tick : Tick
  trunks : Vector Trunk 4
  stations : Vector Station 32
  nextRef : Nat
  aliases : List AliasEntry
  catalog : List Product
  lots : List Lot
  dispatchQueue : List LotNo
  nextStamp : Stamp
  evalPending : Bool
  ageDue : Bool
  cells : Vector Cell 16
  testers : Vector Tester 32
  nextInsertion : Nat
  releaseQueue : List LotNo
  deriving DecidableEq, Repr

/-! ### Reset values -/

/-- Section 1.6: the defaults of the floor policy. -/
def Policy.default : Policy :=
  { lookahead := 4, ageStep := 18000, setupTimeout := 9000, commandTimeout := 50, loadTimeout := 3000, stopTimeout := 600,
    recoveryTime := 300, answerWindow := 8, roundGap := 10, openPass := false }

/-- R10: the enables after a full reset. -/
def Attention.reset : Attention :=
  { master := false, part := true, station := true, cell := true, tester := true, lot := true, release := true }

/-- R19: a trunk after a full reset. -/
def Trunk.reset : Trunk := { position := none, outstanding := none, gap := none }

/-- Section 2.2: the reset values of a station record. -/
def Station.reset : Station :=
  { state := .absent, kind := none, model := none, firmware := none, misses := 0, freshAck := false, alarm := false,
    queue := [], inFlight := none, lateEnd := none }

/-- Section 5.1: the reset values of a cell record. -/
def Cell.reset : Cell :=
  { state := .empty, dock := none, commanded := none, lastTemp := none, work := none, prep := none, insertion := none,
    phaseDeadline := none, recoveryDue := false }

/-- Section 6.1: the reset values of a slot record. -/
def Slot.reset : Slot := { state := .empty, program := none, check := none, locked := false, lastSelected := none }

/-- Section 6.1: the reset values of a tester record. -/
def Tester.reset : Tester :=
  { opState := .idle, operation := none, loadError := false, eraseError := false, lockOverride := false, protectFloor := 8,
    floorWritten := false, selected := none, outstanding := none, next := none, readiness := none,
    slots := Vector.replicate 8 Slot.reset }

/-- R16, with the reset values of every chapter: the part right after a full reset of power-on (log 2), RESET_DONE posted
with its cause 0. -/
def State.reset : State :=
  { pending := [], inReset := none, resetCause := .powerOn, receiver := { phase := .hunt, buffer := [] }, serving := none,
    replies := [], policy := Policy.default, committed := false, attention := Attention.reset,
    events := [{ kind := .resetDone, tick := 0, subject := 0, detail := [0] }], discards := 0, tick := 0,
    trunks := Vector.replicate 4 Trunk.reset, stations := Vector.replicate 32 Station.reset, nextRef := 0, aliases := [],
    catalog := [], lots := [], dispatchQueue := [], nextStamp := 1, evalPending := false, ageDue := false,
    cells := Vector.replicate 16 Cell.reset, testers := Vector.replicate 32 Tester.reset, nextInsertion := 1,
    releaseQueue := [] }

end Sys2Proof.Machine
end

