-- ==== Sys2Proof/Machine/Bytes.lean ====
section
/-! DEFINITION. Byte layouts: numbers most significant byte first (Chapter 1), the CRC-16 of R2, the Floor Link frame
(Section 1.9) and the poll and answer frames (R18). -/

namespace Sys2Proof.Machine

/-! ### Numbers in frames -/

/-- A one-byte field. -/
def u8 (n : Nat) : List Byte := [BitVec.ofNat 8 n]
/-- A two-byte field, most significant byte first. -/
def u16 (n : Nat) : List Byte := [BitVec.ofNat 8 (n / 256), BitVec.ofNat 8 n]
/-- A three-byte field, most significant byte first. -/
def u24 (n : Nat) : List Byte := [BitVec.ofNat 8 (n / 65536), BitVec.ofNat 8 (n / 256), BitVec.ofNat 8 n]
/-- A four-byte field, most significant byte first. -/
def u32 (n : Nat) : List Byte :=
  [BitVec.ofNat 8 (n / 16777216), BitVec.ofNat 8 (n / 65536), BitVec.ofNat 8 (n / 256), BitVec.ofNat 8 n]
/-- A signed two-byte field in two's complement (Chapter 1, introduction). -/
def i16 (z : Int) : List Byte := u16 (z % 65536).toNat
/-- A yes/no field: the part writes 1 for yes (Chapter 1, introduction). -/
def yesNo (b : Bool) : List Byte := u8 (if b then 1 else 0)

/-- A yes/no field as received: 0 is no, any other value yes (Chapter 1, introduction). -/
def isYes (b : Byte) : Bool := b != 0

/-- The value of two bytes, most significant first. -/
def be16 (a b : Byte) : Nat := a.toNat * 256 + b.toNat
/-- The value of four bytes, most significant first. -/
def be32 (a b c d : Byte) : Nat := ((a.toNat * 256 + b.toNat) * 256 + c.toNat) * 256 + d.toNat
/-- The signed value of a 16-bit number in two's complement. -/
def signed16 (n : Nat) : Int := if n < 32768 then n else (n : Int) - 65536

/-- An optional value as its presence field and then the value, 0 when absent (R71, R78, R116, R145; the presence field
stands first, log 5). -/
def present (enc : Nat → List Byte) : Option Nat → List Byte
  | some n => yesNo true ++ enc n
  | none => yesNo false ++ enc 0

/-- As `present`, for a signed two-byte value. -/
def presentI16 : Option Int → List Byte
  | some z => yesNo true ++ i16 z
  | none => yesNo false ++ i16 0

/-! ### CRC-16 (R2) -/

/-- One bit of the CRC: x^16+x^12+x^5+1, most significant bit first. -/
def crcBit (c : BitVec 16) : BitVec 16 := if c.msb then (c <<< 1) ^^^ 0x1021 else c <<< 1

/-- One byte fed into the CRC, most significant bit first. -/
def crcByte (c : BitVec 16) (b : Byte) : BitVec 16 :=
  crcBit (crcBit (crcBit (crcBit (crcBit (crcBit (crcBit (crcBit (c ^^^ ((b.setWidth 16) <<< 8)))))))))

/-- R2: the check over a list of bytes, from 0xFFFF and with no inversion. -/
def crc16 (bytes : List Byte) : BitVec 16 := bytes.foldl crcByte 0xFFFF

/-- The check as it is sent, most significant byte first (R2). -/
def checkBytes (bytes : List Byte) : List Byte := u16 (crc16 bytes).toNat

/-! ### Frames -/

/-- Section 1.9: the Floor Link frame of a kind, a tag and a payload. -/
def linkFrame (kind tag : Byte) (payload : List Byte) : List Byte :=
  let body := u16 (payload.length + 2) ++ [kind, tag] ++ payload
  Config.syncByte :: body ++ checkBytes body

/-- The frame of a reply (R7, R2). -/
def Reply.frame (r : Reply) : List Byte := linkFrame r.kind r.tag r.payload

/-- R20, Section 1.9: a poll frame; flag bit 0 is fresh-start seen. -/
def pollFrame (address : Nat) (freshSeen : Bool) (command : List Byte) : List Byte :=
  let body := u8 address ++ yesNo freshSeen ++ u8 command.length ++ command
  body ++ checkBytes body

/-- Section 1.9: the four status flags of an answer. -/
structure AnswerFlags where
  fresh : Bool
  alarm : Bool
  done : Bool
  failed : Bool
  deriving DecidableEq, Repr

/-- The flags of a status byte; bits 4 to 7 are ignored (R18). -/
def AnswerFlags.ofByte (b : Byte) : AnswerFlags :=
  { fresh := b.getLsbD 0, alarm := b.getLsbD 1, done := b.getLsbD 2, failed := b.getLsbD 3 }

/-- The status byte of the four flags, bits 4 to 7 at 0 (log 15). -/
def AnswerFlags.toByte (f : AnswerFlags) : Nat :=
  f.fresh.toNat + 2 * f.alarm.toNat + 4 * f.done.toNat + 8 * f.failed.toNat

/-- R18: the flags and report of a well-formed answer for a station address: its address byte is the address plus 0x80,
its report length 0..48, its byte count matches and its check is right. -/
def readAnswer (address : Nat) (bytes : List Byte) : Option (AnswerFlags × List Byte) :=
  match bytes with
  | a :: f :: n :: rest =>
    let report := rest.take n.toNat
    if a.toNat = address + 0x80 ∧ n.toNat ≤ Config.reportMax ∧ rest.length = n.toNat + 2 ∧
        rest.drop n.toNat = checkBytes (a :: f :: n :: report) then
      some (AnswerFlags.ofByte f, report)
    else none
  | _ => none

end Sys2Proof.Machine
end

