-- ==== Sys2Proof/Machine/Operands.lean ====
section
/-! DEFINITION. What travels on the trunks: the commands to stations and the reports from them (Sections 1.9, 2.3, 5.2,
6.2), and the codes by which replies and events show the part's values. -/

namespace Sys2Proof.Machine

/-! ### Commands -/

/-- Section 2.3: the category of a command. -/
def Command.category : Command → Category
  | .setSetpoint _ _ => .internal
  | .startInsertion _ _ _ _ => .internal
  | .stopSegment _ => .stop
  | .slotCommand _ _ _ _ => .internal
  | .pass _ => .pass

/-- The kind bytes of a tester's commands (Section 6.2). -/
def TesterOp.kindByte : TesterOp → Nat
  | .load => 0x41
  | .erase => 0x42
  | .verify => 0x43
  | .select => 0x44

/-- The bytes of a command: the kind byte and the fields of the tables of Sections 5.2 and 6.2; a pass-through command is
the host's bytes (R38). -/
def Command.bytes : Command → List Byte
  | .setSetpoint _ z => u8 0x21 ++ i16 z
  | .startInsertion number lot step quantity => u8 0x22 ++ u16 number ++ u32 lot.toNat ++ u8 step ++ u32 quantity
  | .stopSegment number => u8 0x23 ++ u16 number
  | .slotCommand .load slot id rev => u8 0x41 ++ u8 slot.val ++ u16 id ++ u8 rev
  | .slotCommand op slot _ _ => u8 op.kindByte ++ u8 slot.val
  | .pass bytes => bytes

/-- R30: the duration of a command's deadline, read from the policy by its kind. -/
def Command.duration (c : Command) (p : Policy) : Nat :=
  match c with
  | .slotCommand .load _ _ _ => p.loadTimeout
  | .slotCommand .verify _ _ _ => p.loadTimeout
  | .stopSegment _ => p.stopTimeout
  | _ => p.commandTimeout

/-- Section 2.3: the ways a command ends. -/
inductive End where
  | done
  | failed
  | timeout
  | lost
  | restart
  | retired
  | notOnline
  | occupied
  deriving DecidableEq, Repr

/-! ### Reports -/

/-- The reports known to the part (R18). -/
inductive Report where
  | identity (kind model firmware : Nat)
  | passResult (body : List Byte)
  | kit (family : Nat)
  | temp (value : Int)
  | tally (number : Nat) (seq : Byte) (increments : List Nat)
  | endOf (number : Nat) (finalSeq : Byte) (stopped : Bool)
  | slotCheck (slot programId programRevision : Nat) (check : BitVec 32)
  deriving DecidableEq, Repr

/-- Section 1.9: the twelve-bit increments packed in pairs, three bytes a pair. -/
def unpackIncrements : List Byte → List Nat
  | a :: b :: c :: rest =>
    (a.toNat * 16 + b.toNat / 16) :: (b.toNat % 16 * 256 + c.toNat) :: unpackIncrements rest
  | _ => []

/-- R18: a report is known when its kind is one of these and its length fits the kind. -/
def readReport : List Byte → Option Report
  | [] => none
  | k :: rest =>
    match k.toNat, rest with
    | 0x01, [s, m1, m0, f1, f0] => some (.identity s.toNat (be16 m1 m0) (be16 f1 f0))
    | 0x11, [f] => some (.kit f.toNat)
    | 0x12, [t1, t0] => some (.temp (signed16 (be16 t1 t0)))
    | 0x14, n1 :: n0 :: q :: incs =>
      if incs.length = 24 then some (.tally (be16 n1 n0) q (unpackIncrements incs)) else none
    | 0x15, [n1, n0, q, s] => some (.endOf (be16 n1 n0) q (isYes s))
    | 0x31, [sl, p1, p0, r, c3, c2, c1, c0] =>
      some (.slotCheck sl.toNat (be16 p1 p0) r.toNat (BitVec.ofNat 32 (be32 c3 c2 c1 c0)))
    | 0x3F, body => if body.length ≤ 47 then some (.passResult body) else none
    | _, _ => none

/-- The kind byte of a report. -/
def Report.kindByte : Report → Nat
  | .identity _ _ _ => 0x01
  | .kit _ => 0x11
  | .temp _ => 0x12
  | .tally _ _ _ => 0x14
  | .endOf _ _ _ => 0x15
  | .slotCheck _ _ _ _ => 0x31
  | .passResult _ => 0x3F

/-- R33: the insertion number a report carries, or 0. -/
def Report.insertionNumber : Report → Nat
  | .tally n _ _ => n
  | .endOf n _ _ => n
  | _ => 0

/-! ### Codes -/

/-- R7: the reply statuses. -/
inductive Status where
  | ok
  | started
  | busy
  | malformed
  | unknownRequest
  | range
  | noSuch
  | exists_
  | tableFull
  | wrongState
  | writeOnce
  | inUse
  | stationAbsent
  | stationLost
  | kindMismatch
  | aliasGroup
  | stationBusy
  | noResponse
  | testerBusy
  | testerErrorSet
  | locked
  | protected_
  | held
  | retestLimit
  | ticketMismatch
  | unproven
  | nothingToShip
  | queueFull
  | notNext
  | already
  deriving DecidableEq, Repr

/-- The codes of the table under R7. -/
def Status.code : Status → Nat
  | .ok => 0
  | .started => 1
  | .busy => 2
  | .malformed => 3
  | .unknownRequest => 4
  | .range => 5
  | .noSuch => 6
  | .exists_ => 7
  | .tableFull => 8
  | .wrongState => 9
  | .writeOnce => 10
  | .inUse => 12
  | .stationAbsent => 13
  | .stationLost => 14
  | .kindMismatch => 15
  | .aliasGroup => 16
  | .stationBusy => 17
  | .noResponse => 18
  | .testerBusy => 19
  | .testerErrorSet => 20
  | .locked => 21
  | .protected_ => 22
  | .held => 24
  | .retestLimit => 25
  | .ticketMismatch => 26
  | .unproven => 27
  | .nothingToShip => 28
  | .queueFull => 29
  | .notNext => 30
  | .already => 31

/-- R9: the codes of the event classes. -/
def EventClass.code : EventClass → Nat
  | .part => 1
  | .station => 2
  | .cell => 3
  | .tester => 4
  | .lot => 5
  | .release => 6

/-- The class of an event kind and its code within the class, from 1 in the order of the event kinds table (R9). -/
def EventKind.classCode : EventKind → EventClass × Nat
  | .resetDone => (.part, 1)
  | .policyCommitted => (.part, 2)
  | .stationOnline => (.station, 1)
  | .stationLost => (.station, 2)
  | .stationRestart => (.station, 3)
  | .enrollFailed => (.station, 4)
  | .strayReport => (.station, 5)
  | .cellIdle => (.cell, 1)
  | .cellFaulted => (.cell, 2)
  | .kitNeeded => (.cell, 3)
  | .setupExpired => (.cell, 4)
  | .stopExpired => (.cell, 5)
  | .loadResult => (.tester, 1)
  | .eraseResult => (.tester, 2)
  | .verifyResult => (.tester, 3)
  | .purgeDone => (.tester, 4)
  | .assigned => (.lot, 1)
  | .assignmentCancelled => (.lot, 2)
  | .insertionStarted => (.lot, 3)
  | .insertionClosed => (.lot, 4)
  | .finding => (.lot, 5)
  | .holdRaised => (.lot, 6)
  | .holdDisposed => (.lot, 7)
  | .lotComplete => (.lot, 8)
  | .released => (.release, 1)
  | .releaseRefused => (.release, 2)
  | .recalled => (.release, 3)
  | .shipped => (.release, 4)

/-- The class of an event. -/
def EventKind.cls (k : EventKind) : EventClass := k.classCode.1

/-- R9: a record as FETCH EVENTS returns it. -/
def Event.bytes (e : Event) : List Byte :=
  u8 e.kind.cls.code ++ u8 e.kind.classCode.2 ++ u32 e.tick.toNat ++ u32 e.subject.toNat ++ u8 e.detail.length ++ e.detail

/-- R16, R17: the codes of the reset causes. -/
def resetCauseCode : ResetCause → Nat
  | .powerOn => 0
  | .resetPin => 1

/-- R28: the codes of the station states. -/
def StationState.code : StationState → Nat
  | .absent => 0
  | .joining => 1
  | .online => 2
  | .lost => 3

/-- R22: the codes of the station kinds. -/
def StationKind.code : StationKind → Nat
  | .handler => 1
  | .tester => 2

/-- The kind a code names (R22, R23). -/
def StationKind.ofCode : Nat → Option StationKind
  | 1 => some .handler
  | 2 => some .tester
  | _ => none

/-- The argument of `Config.categoryCode` (log 6). -/
def Category.index : Category → Nat
  | .internal => 0
  | .stop => 1
  | .pass => 2

/-- Section 10.1: the rank of a cause, which is its code. -/
def Cause.rank : Cause → Nat
  | .operator => 1
  | .releaseLockout => 2
  | .cellFault => 3
  | .programMismatch => 4
  | .countOver => 5
  | .tallyGap => 6
  | .countShort => 7
  | .tempExcursion => 8
  | .binLimit => 9
  | .yieldLow => 10

/-- The cause a code names (R165). -/
def Cause.ofCode : Nat → Option Cause
  | 1 => some .operator
  | 2 => some .releaseLockout
  | 3 => some .cellFault
  | 4 => some .programMismatch
  | 5 => some .countOver
  | 6 => some .tallyGap
  | 7 => some .countShort
  | 8 => some .tempExcursion
  | 9 => some .binLimit
  | 10 => some .yieldLow
  | _ => none

/-- Section 10.1: the step-scoped causes. -/
def Cause.stepScoped : Cause → Bool
  | .operator => false
  | .releaseLockout => false
  | _ => true

/-- Section 4.2: the codes of the lot states. -/
def LotState.code : LotState → Nat
  | .waiting => 1
  | .assigned => 2
  | .running => 3
  | .complete => 4
  | .released => 5
  | .shipped => 6
  | .scrapped => 7

/-- R71: the codes of the outcomes. -/
def InsOutcome.code : InsOutcome → Nat
  | .notRun => 0
  | .running => 1
  | .partialHeld => 2
  | .completeHeld => 3
  | .completeClean => 4

/-- Section 5.1: the codes of the cell states. -/
def CellState.code : CellState → Nat
  | .empty => 0
  | .idle => 1
  | .setup => 2
  | .preparing => 3
  | .running => 4
  | .stopping => 5
  | .faulted => 6

/-- R116: the codes of the operation states. -/
def OpState.code : OpState → Nat
  | .idle => 0
  | .loading => 1
  | .erasing => 2
  | .verifying => 3
  | .purging => 4

/-- Section 6.7: the codes of the origins. -/
def Origin.code : Origin → Nat
  | .host => 0
  | .dispatch => 1

/-- R116: the codes of the slot states. -/
def SlotState.code : SlotState → Nat
  | .empty => 0
  | .loading => 1
  | .erasing => 2
  | .verified => 3
  | .stale => 4
  | .fault => 5

/-- The argument of `Config.planCode`: the row of R111's table (log 6). -/
def Plan.index : Plan → Nat
  | .select _ => 0
  | .verify _ => 1
  | .load _ => 2
  | .eraseLoad _ => 3

/-- R99: the outcomes of a tester's command. -/
inductive OpOutcome where
  | done
  | mismatch
  | failed
  | timeout
  | lost
  | restart
  | noReport
  deriving DecidableEq, Repr

/-- R99: the codes of the outcomes. -/
def OpOutcome.code : OpOutcome → Nat
  | .done => 0
  | .mismatch => 1
  | .failed => 2
  | .timeout => 3
  | .lost => 4
  | .restart => 5
  | .noReport => 6

/-- Section 5.4: the causes of a cancellation. -/
inductive CancelCause where
  | request
  | hold
  | setupExpired
  | setpointFailed
  | startFailed
  | programFailed
  | kitChanged
  | handlerLost
  | handlerRestart
  | testerLost
  | testerRestart
  | reset
  deriving DecidableEq, Repr

/-- Section 5.4: the codes of the causes. -/
def CancelCause.code : CancelCause → Nat
  | .request => 1
  | .hold => 2
  | .setupExpired => 3
  | .setpointFailed => 4
  | .startFailed => 5
  | .programFailed => 6
  | .kitChanged => 7
  | .handlerLost => 8
  | .handlerRestart => 9
  | .testerLost => 10
  | .testerRestart => 11
  | .reset => 12

/-- Section 5.4: the causes that leave the cell FAULTED. -/
def CancelCause.faults : CancelCause → Bool
  | .handlerLost => true
  | .testerLost => true
  | _ => false

/-- Section 5.4: the causes that load the recovery timer. -/
def CancelCause.loadsRecovery : CancelCause → Bool
  | .setpointFailed => true
  | .startFailed => true
  | _ => false

/-- R146: the close causes. -/
inductive CloseCause where
  | endComplete
  | endStopped
  | stopExpired
  | handlerLost
  | testerLost
  | handlerRestart
  | resetCell
  deriving DecidableEq, Repr

/-- R146: the codes of the close causes. -/
def CloseCause.code : CloseCause → Nat
  | .endComplete => 0
  | .endStopped => 1
  | .stopExpired => 2
  | .handlerLost => 3
  | .testerLost => 4
  | .handlerRestart => 5
  | .resetCell => 6

end Sys2Proof.Machine
end

