-- ==== Sys2Proof/Machine/Ops.lean ====
section
/-! DEFINITION. The named operations over the state: tables, records, deadlines, events, triggers, replies, lookups,
alias resolution and the offering of commands to stations. -/

namespace Sys2Proof.Machine

/-! ### Tables held in ascending key -/

/-- Writes an item into a table held in strictly ascending key, in place of the item of the same key if there is one. -/
def putBy {α : Type} (key : α → Nat) (x : α) : List α → List α
  | [] => [x]
  | y :: ys => if key x < key y then x :: y :: ys else if key x = key y then x :: ys else y :: putBy key x ys

/-- Inserts an item before the first item it goes before. -/
def insertOrd {α : Type} (before : α → α → Bool) (x : α) : List α → List α
  | [] => [x]
  | y :: ys => if before x y then x :: y :: ys else y :: insertOrd before x ys

/-- The items in the order `before` gives. -/
def sortOrd {α : Type} (before : α → α → Bool) : List α → List α
  | [] => []
  | x :: xs => insertOrd before x (sortOrd before xs)

/-- All cells, trunks, places, slots and bins in ascending number. -/
def allPlaces : List Place := [0, 1, 2, 3, 4, 5, 6, 7, 8, 9, 10, 11, 12, 13, 14, 15, 16, 17, 18, 19, 20, 21, 22, 23, 24, 25,
  26, 27, 28, 29, 30, 31]
def allCells : List CellNo := [0, 1, 2, 3, 4, 5, 6, 7, 8, 9, 10, 11, 12, 13, 14, 15]
def allSlots : List SlotNo := [0, 1, 2, 3, 4, 5, 6, 7]
def allBins : List Bin := [0, 1, 2, 3, 4, 5, 6, 7, 8, 9, 10, 11, 12, 13, 14, 15]
def allAddrs : List AddrIx := [0, 1, 2, 3, 4, 5, 6, 7]

/-! ### Records by number -/

def State.station (s : State) (p : Place) : Station := s.stations[p]
def State.trunk (s : State) (t : TrunkNo) : Trunk := s.trunks[t]
def State.cell (s : State) (c : CellNo) : Cell := s.cells[c]
def State.tester (s : State) (p : Place) : Tester := s.testers[p]

def State.setStation (s : State) (p : Place) (x : Station) : State := { s with stations := s.stations.set p x }
def State.setTrunk (s : State) (t : TrunkNo) (x : Trunk) : State := { s with trunks := s.trunks.set t x }
def State.setCell (s : State) (c : CellNo) (x : Cell) : State := { s with cells := s.cells.set c x }
def State.setTester (s : State) (p : Place) (x : Tester) : State := { s with testers := s.testers.set p x }

def State.modStation (s : State) (p : Place) (f : Station → Station) : State := s.setStation p (f (s.station p))
def State.modCell (s : State) (c : CellNo) (f : Cell → Cell) : State := s.setCell c (f (s.cell c))
def State.modTester (s : State) (p : Place) (f : Tester → Tester) : State := s.setTester p (f (s.tester p))

/-- Section 2.2: place = trunk x 8 + (address - 1). -/
def placeOf (t : TrunkNo) (a : AddrIx) : Place := ⟨t.val * 8 + a.val, by omega⟩
def trunkOf (p : Place) : TrunkNo := ⟨p.val / 8, by omega⟩
def addrOf (p : Place) : AddrIx := ⟨p.val % 8, by omega⟩

/-- The lot record of a number (R56). -/
def State.lot? (s : State) (n : LotNo) : Option Lot := s.lots.find? (fun l => l.number == n)

/-- Changes the record of a lot; `f` keeps the number. -/
def State.modLot (s : State) (n : LotNo) (f : Lot → Lot) : State :=
  { s with lots := s.lots.map (fun l => if l.number = n then f l else l) }

/-- The catalog entry of a product number (R41). -/
def State.product? (s : State) (n : ProductNo) : Option Product := s.catalog.find? (fun e => e.number == n)

/-- Writes a catalog entry, by ascending product number. -/
def State.putProduct (s : State) (e : Product) : State := { s with catalog := putBy (fun x => x.number.toNat) e s.catalog }

/-- Frees a catalog entry (R41). -/
def State.dropProduct (s : State) (n : ProductNo) : State := { s with catalog := s.catalog.filter (fun e => e.number != n) }

/-- The alias entry of a number (R34). -/
def State.alias? (s : State) (n : Byte) : Option AliasEntry := s.aliases.find? (fun e => e.number == n)

/-- The route step of a lot's step number, counted from 1. -/
def Lot.stepAt (l : Lot) (k : Nat) : Option RouteStep := if k = 0 then none else l.snapshot.steps[k - 1]?
/-- The insertion record of a lot's step number, counted from 1. -/
def Lot.recordAt (l : Lot) (k : Nat) : Option Insertion := if k = 0 then none else l.records[k - 1]?
/-- Changes the insertion record of a step number. -/
def Lot.modRecord (l : Lot) (k : Nat) (f : Insertion → Insertion) : Lot :=
  if k = 0 then l else { l with records := l.records.modify (k - 1) f }
/-- The current record of a lot (R133). -/
def Lot.current (l : Lot) : Option Insertion := l.recordAt l.currentStep
def Lot.modCurrent (l : Lot) (f : Insertion → Insertion) : Lot := l.modRecord l.currentStep f

/-- R159: the leading hold's rank, 0 when the set is empty. -/
def leadingRank (hs : List Hold) : Nat := match hs with | [] => 0 | h :: _ => h.cause.rank

/-! ### Time (R12) -/

/-- A deadline of a duration, set now. -/
def State.deadlineIn (s : State) (d : Nat) : Deadline := { start := s.tick, span := d }

/-- The counter value at which a deadline expires. -/
def Deadline.expiry (d : Deadline) : Tick := d.start + BitVec.ofNat 32 d.span

/-- R12: the increment at which the deadline expires has come. -/
def Deadline.due (d : Deadline) (now : Tick) : Bool := d.span ≤ elapsed now d.start

/-! ### Events and triggers -/

/-- R8: posts an event. -/
def State.post (s : State) (k : EventKind) (subject : BitVec 32) (detail : List Byte) : State :=
  if s.events.length < Config.eventRoom then
    { s with events := s.events ++ [{ kind := k, tick := s.tick, subject := subject, detail := detail }] }
  else { s with discards := if s.discards < Config.discardMax then s.discards + 1 else Config.discardMax }

/-- A place, cell or number as an event subject. -/
def subj (n : Nat) : BitVec 32 := BitVec.ofNat 32 n

/-- R33: STRAY_REPORT for a report from a place. The insertion number always takes two bytes, also as the 0 of a report that
carries none: DEDUCED (log 5). -/
def State.stray (s : State) (p : Place) (r : Report) : State :=
  s.post .strayReport (subj p.val) (u8 r.kindByte ++ u16 r.insertionNumber)

/-- R33: STRAY_REPORT for the report of an answer, if there is one. -/
def State.strayOpt (s : State) (p : Place) : Option Report → State
  | some r => s.stray p r
  | none => s

/-- R120: a trigger of evaluation sets evaluation pending while the policy is committed, and is disregarded before. -/
def State.trigger (s : State) : State := if s.committed then { s with evalPending := true } else s

/-! ### Replies (R4 to R7) -/

/-- The reply kind of a frame's kind: the kind plus 0x80; for a kind of 0x80 or above a free value (log 7). -/
def replyKind (kind : Byte) : Byte := if kind.toNat < 0x80 then kind + 0x80 else Config.highReplyKind kind

/-- Places a reply in the reply list. -/
def State.placeReply (s : State) (kind tag : Byte) (st : Status) (fields : List Byte) : State :=
  { s with replies := s.replies ++ [{ kind := replyKind kind, tag := tag, payload := u8 st.code ++ fields }] }

/-- R4: places the reply of the request being served and clears the serving flag, in one step. -/
def State.answer (s : State) (kind tag : Byte) (st : Status) (fields : List Byte) : State :=
  { (s.placeReply kind tag st fields) with serving := none }

/-- R6: a well-framed frame that arrives now is dropped: the list holds four replies, or three while a request is served. -/
def State.replyListFull (s : State) : Bool :=
  Config.replyRoom ≤ s.replies.length || (s.serving.isSome && Config.replyRoom ≤ s.replies.length + 1)

/-! ### Stations and cells -/

/-- R19: the states in which a place is polled. -/
def Station.enrolled (st : Station) : Bool := st.state != .absent

/-- The docked cell that holds a place as its handler place. -/
def State.cellOfHandler (s : State) (p : Place) : Option CellNo :=
  allCells.find? (fun c => match (s.cell c).dock with | some d => d.handler == p | none => false)

/-- The docked cell that holds a place as its tester place. -/
def State.cellOfTester (s : State) (p : Place) : Option CellNo :=
  allCells.find? (fun c => match (s.cell c).dock with | some d => d.tester == p | none => false)

/-- A place is the handler place or the tester place of a docked cell. -/
def State.isDocked (s : State) (p : Place) : Bool := (s.cellOfHandler p).isSome || (s.cellOfTester p).isSome

/-- The lot a cell works on. -/
def State.cellLot (s : State) (c : CellNo) : Option Lot :=
  match (s.cell c).work with | some w => s.lot? w.lot | none => none

/-- The route step a cell works on, from the lot's snapshot (R59). -/
def State.cellStep (s : State) (c : CellNo) : Option RouteStep :=
  match (s.cell c).work with
  | some w => match s.lot? w.lot with | some l => l.stepAt w.step | none => none
  | none => none

/-- Sets a docked cell's recovery timer. -/
def Cell.loadRecovery (x : Cell) (ticks : Nat) : Cell := { x with dock := x.dock.map (fun d => { d with recovery := ticks }) }

/-! ### Aliases (R34) -/

/-- Resolves an alias: 0 and 255 are RANGE before the table is read, any other number not in the table NO_SUCH. -/
def State.resolve (s : State) (al : Byte) : Except Status AliasEntry :=
  if al = 0 ∨ al = 255 then .error .range
  else match s.alias? al with
    | none => .error .noSuch
    | some e => .ok e

/-- Resolves an alias where one station is required: a group alias is ALIAS_GROUP. -/
def State.resolveSingle (s : State) (al : Byte) : Except Status Place :=
  match s.resolve al with
  | .error st => .error st
  | .ok e => match e.members with
    | [p] => .ok p
    | _ => .error .aliasGroup

/-- R97: resolves a tester: a group alias, an ABSENT place and a HANDLER place are refused, in this order. -/
def State.resolveTester (s : State) (al : Byte) : Except Status Place :=
  match s.resolveSingle al with
  | .error st => .error st
  | .ok p =>
    if (s.station p).state = .absent then .error .stationAbsent
    else if (s.station p).kind ≠ some .tester then .error .kindMismatch
    else .ok p

/-! ### Offering a command (R29) -/

/-- A command of a category stands in the queue. -/
def Station.queued (st : Station) (cat : Category) : Bool := st.queue.any (fun q => q.category == cat)

/-- A command of a category is in flight. -/
def Station.flying (st : Station) (cat : Category) : Bool := st.inFlight.any (fun f => f.command.category == cat)

/-- R29: the queue after an offer to an ONLINE place, or none when the category's room is taken. -/
def Station.queueWith (st : Station) (cmd : Command) : Option (List Command) :=
  match cmd.category with
  | .internal => if st.queued .internal then none else some (st.queue ++ [cmd])
  | .stop => if st.kind ≠ some .handler ∨ st.queued .stop ∨ st.flying .stop then none else some (cmd :: st.queue)
  | .pass => if st.queued .pass ∨ st.flying .pass then none else some (st.queue ++ [cmd])

/-- R29: an offer of a command to a place. The second part is none when the offer is taken, and otherwise the end the
command meets at once. -/
def State.offer (s : State) (p : Place) (cmd : Command) : State × Option End :=
  if (s.station p).state ≠ .online then (s, some .notOnline)
  else match (s.station p).queueWith cmd with
    | some q => (s.setStation p { s.station p with queue := q }, none)
    | none => (s, some .occupied)

/-- An offer whose immediate failure is dropped (R89, R92, R94). -/
def State.offerDrop (s : State) (p : Place) (cmd : Command) : State := (s.offer p cmd).1

/-! ### The dispatch queue (R117) and stamps (R62) -/

/-- A lot enters the dispatch queue, which is a trigger of evaluation. -/
def State.enterQueue (s : State) (n : LotNo) : State :=
  { s with dispatchQueue := putBy BitVec.toNat n s.dispatchQueue }.trigger

/-- A lot leaves the dispatch queue. -/
def State.leaveQueue (s : State) (n : LotNo) : State :=
  { s with dispatchQueue := s.dispatchQueue.filter (fun m => m != n) }

/-- R62: a lot takes a new stamp and enqueue tick, and the counter is raised. -/
def State.takeStamp (s : State) (n : LotNo) : State :=
  { (s.modLot n fun l => { l with stamp := s.nextStamp, enqueueTick := s.tick }) with nextStamp := s.nextStamp + 1 }

end Sys2Proof.Machine
end

