-- ==== Sys2Proof/Machine/Assign.lean ====
section
/-! DEFINITION. What ends an assignment or asks a segment to stop: the withdrawal of a readiness request (R113), the
cancellation (R90) and the stop request (R92). -/

namespace Sys2Proof.Machine

/-- R113: the request is removed, a next command dropped, an outstanding SELECT no longer awaited; an operation runs on. -/
def Tester.withdraw (t : Tester) : Tester :=
  { t with
    readiness := none
    next := none
    outstanding := t.outstanding.map fun o => if o.op = .select then { o with awaited := false } else o }

/-- R113: withdraws the readiness request of a cell, if one is outstanding on its tester. -/
def State.withdrawReadiness (s : State) (c : CellNo) : State :=
  match (s.cell c).dock with
  | none => s
  | some d =>
    match (s.tester d.tester).readiness with
    | none => s
    | some r => if r.cell = c then s.modTester d.tester Tester.withdraw else s

/-- R90: the cell after a cancellation, the recovery timer at `recovery` where the cause loads it. -/
def Cell.cancelled (x : Cell) (cause : CancelCause) (recovery : Nat) : Cell :=
  let x := { x with
    state := if cause.faults then .faulted else .idle
    work := none, prep := none, insertion := none, phaseDeadline := none }
  if cause.loadsRecovery then x.loadRecovery recovery else x

/-- R90, R139: the lot is WAITING at its step with no cell. -/
def Lot.unassigned (l : Lot) : Lot := { l with state := .waiting, cell := none }

/-- R117: a lot whose hold set is empty enters the dispatch queue. -/
def State.enterQueueIfUnheld (s : State) (n : LotNo) : State :=
  match s.lot? n with
  | none => s
  | some l => if l.holds = [] then s.enterQueue n else s

/-- Section 5.8: CELL_FAULTED; the cause is 1 docking, 2 handler lost, 3 tester lost, the lot 0 if none. -/
def State.postFaulted (s : State) (c : CellNo) (cause : Nat) (lot : LotNo) : State :=
  s.post .cellFaulted (subj c.val) (u8 cause ++ u32 lot.toNat)

/-- R90: a cancellation of the assignment of a cell. -/
def State.cancel (s : State) (c : CellNo) (cause : CancelCause) : State :=
  match (s.cell c).work with
  | none => s
  | some w =>
    let s := s.withdrawReadiness c
    let s := s.modCell c fun x => x.cancelled cause s.policy.recoveryTime
    let s := s.modLot w.lot Lot.unassigned
    let s := s.enterQueueIfUnheld w.lot
    let s := s.post .assignmentCancelled w.lot (u8 c.val ++ u8 w.step ++ u8 cause.code)
    match cause with
    | .handlerLost => s.postFaulted c 2 w.lot
    | .testerLost => s.postFaulted c 3 w.lot
    | _ => s.trigger

/-- R92: a stop request to a cell: in RUNNING, STOP is offered and the cell becomes STOPPING, whatever the offer meets. -/
def State.stopRequest (s : State) (c : CellNo) : State :=
  if (s.cell c).state = .running then
    let s := match (s.cell c).dock, (s.cell c).insertion with
      | some d, some n => s.offerDrop d.handler (.stopSegment n)
      | _, _ => s
    s.modCell c fun x => { x with state := .stopping, phaseDeadline := some (s.deadlineIn s.policy.stopTimeout) }
  else s

end Sys2Proof.Machine
end

