-- ==== Sys2Proof/Machine/Holds.lean ====
section
/-! DEFINITION. The Hold Logic (Chapter 10): recording and judging findings, the effect of a new hold, and recall (R176). -/

namespace Sys2Proof.Machine

/-- A finding as it is handed to the Hold Logic (R133): its cause, the cause detail of R160's table and, for BIN_LIMIT,
the offending bins. -/
structure Raised where
  cause : Cause
  detail : List Byte
  bins : List Bin
  deriving DecidableEq, Repr

/-- R161: the four verdicts. -/
inductive Verdict where
  | notEnabled
  | waived
  | heldBefore
  | entered
  deriving DecidableEq, Repr

/-- R161: the codes of the verdicts. -/
def Verdict.code : Verdict → Nat
  | .notEnabled => 0
  | .waived => 1
  | .heldBefore => 2
  | .entered => 3

/-- R45, Section 10.1: the hold enable of a cause in a snapshot; a cause that is not enable-gated is always on. -/
def HoldEnables.allows (e : HoldEnables) : Cause → Bool
  | .countOver => e.countOver
  | .tallyGap => e.tallyGap
  | .countShort => e.countShort
  | .tempExcursion => e.tempExcursion
  | .binLimit => e.binLimit
  | .yieldLow => e.yieldLow
  | .operator => true
  | .releaseLockout => true
  | .cellFault => true
  | .programMismatch => true

/-- Two lists of bins merged, in ascending order. -/
def mergeBins (a b : List Bin) : List Bin := allBins.filter fun i => a.contains i || b.contains i

/-- A set of bins as a 16-bit set, bit b for bin b (R160). -/
def binSet (bins : List Bin) : Nat := (allBins.filter bins.contains).foldl (fun n i => n + 2 ^ i.val) 0

/-- A cause detail filled with 0 to five bytes (R160). -/
def pad5 (d : List Byte) : List Byte := d ++ List.replicate (5 - d.length) 0

/-- R160: the findings after a finding is recorded, and whether it changed the record. -/
def recordFinding (fs : List Finding) (now : Tick) (r : Raised) : List Finding × Bool :=
  match fs.find? (fun f => f.cause == r.cause) with
  | none => (putBy (fun f => f.cause.rank) { cause := r.cause, firstTick := now, bins := r.bins } fs, true)
  | some f =>
    (putBy (fun f => f.cause.rank) { f with bins := mergeBins f.bins r.bins } fs, r.bins.any fun i => !f.bins.contains i)

/-- R161: the verdict of a finding against the lot's snapshot, the current waiver set and the hold set. -/
def Lot.judge (l : Lot) (cause : Cause) : Verdict :=
  if !l.snapshot.enables.allows cause then .notEnabled
  else if (match l.current with | some r => r.waivers.contains cause | none => false) then .waived
  else if l.holds.any (fun h => h.cause == cause) then .heldBefore
  else .entered

/-- R176: the position of a lot in a queue, from 1. -/
def positionIn (n : LotNo) (q : List LotNo) : Nat := q.findIdx (fun m => m == n) + 1

/-- R176: a RELEASED lot is taken out of the release queue and is COMPLETE again. -/
def State.recall (s : State) (n : LotNo) (cause : Cause) : State :=
  let pos := positionIn n s.releaseQueue
  let s := { s with releaseQueue := s.releaseQueue.filter (fun m => m != n) }
  let s := s.modLot n fun l => { l with state := .complete, release := none }
  s.post .recalled n (u8 pos ++ u8 s.releaseQueue.length ++ u8 cause.rank)

/-- R162: the action on a lot whose hold set a cause has entered, by the lot's state. -/
def State.holdAction (s : State) (l : Lot) (cause : Cause) : State :=
  match l.state with
  | .waiting => s.leaveQueue l.number
  | .assigned => match l.cell with | some c => s.cancel c .hold | none => s
  | .running => match l.cell with | some c => s.stopRequest c | none => s
  | .released => s.recall l.number cause
  | .complete | .shipped | .scrapped => s

/-- R162: a cause enters a lot's hold set: the entry is made, HOLD_RAISED is posted and the lot's state decides the action. -/
def State.enterHold (s : State) (n : LotNo) (cause : Cause) (bins : List Bin) : State :=
  match s.lot? n with
  | none => s
  | some l =>
    let holds := putBy (fun h => h.cause.rank) { cause := cause, step := l.currentStep, tick := s.tick, bins := bins } l.holds
    let s := s.modLot n fun l => { l with holds := holds }
    let s := s.post .holdRaised n
      (u8 cause.rank ++ u8 l.currentStep ++ u8 (leadingRank holds) ++ u8 holds.length ++ u8 l.state.code)
    s.holdAction { l with holds := holds } cause

/-- R161: bins of a BIN_LIMIT finding are merged into the entry the hold set already has. -/
def mergeHold (cause : Cause) (bins : List Bin) (holds : List Hold) : List Hold :=
  holds.map fun h => if h.cause = cause then { h with bins := mergeBins h.bins bins } else h

/-- R160: FINDING, posted for a finding that changed the record. -/
def State.postFinding (s : State) (l : Lot) (r : Raised) (v : Verdict) : State :=
  s.post .finding l.number (u8 l.currentStep ++ u8 r.cause.rank ++ u8 v.code ++ pad5 r.detail)

/-- R160, R161: a step-scoped finding of a lot's current step is recorded, judged, posted where it changes the record, and
enters the hold set where its verdict is ENTERED. -/
def State.finding (s : State) (n : LotNo) (r : Raised) : State :=
  match s.lot? n with
  | none => s
  | some l =>
    match l.current with
    | none => s
    | some rec =>
      let (fs, changed) := recordFinding rec.findings s.tick r
      let v := l.judge r.cause
      let s := s.modLot n fun l => l.modCurrent fun i => { i with findings := fs }
      let s := if changed then s.postFinding l r v else s
      match v with
      | .notEnabled | .waived => s
      | .heldBefore => s.modLot n fun l => { l with holds := mergeHold r.cause r.bins l.holds }
      | .entered => s.enterHold n r.cause r.bins

/-- The findings of a check, in the order of the checks. -/
def State.raiseAll (s : State) (n : LotNo) (rs : List Raised) : State := rs.foldl (fun s r => s.finding n r) s

end Sys2Proof.Machine
end

