-- ==== Sys2Proof/Machine/Monitor.lean ====
section
/-! DEFINITION. The Hold Monitor (Chapter 9): yield, bin fractions, limits, the two checks and the baseline update, in
exact integer arithmetic; and the baseline read of R52. -/

namespace Sys2Proof.Machine

/-- R148: the yield in basis points, defined for a tested count of at least 1. -/
def yieldOf (good tested : Nat) : Nat := 10000 * good / tested

/-- R149: the bin fraction, defined for a tested count of at least 1. -/
def fractionOf (count tested : Nat) : Nat := Config.fractionUnit * count / tested

/-- R150: the limit of a fail bin from its baseline, margin and gain. -/
def limitOf (baseline margin gain : Nat) : Nat :=
  min Config.fractionUnit (baseline + max margin (baseline * gain / 16))

/-- R152: the offending bins of a record, in ascending bin number. -/
def offendingBins (r : Insertion) (v : Version) (b : Baseline) : List Bin :=
  allBins.filter fun i =>
    !v.good[i] && decide (limitOf b.values[i] v.margins[i] v.gain < fractionOf r.bins[i] r.tested)

/-- R151: the yield check finds YIELD_LOW; its running form needs the sample minimum, neither form is made at T = 0. -/
def yieldLow (running : Bool) (r : Insertion) (v : Version) : Bool :=
  decide (1 ≤ r.tested) && (!running || decide (v.sampleMin ≤ r.tested)) && decide (yieldOf r.good r.tested < v.yieldFloor)

/-- R152: the bin-limit check finds BIN_LIMIT. -/
def binLimitFound (r : Insertion) (v : Version) (b : Baseline) : Bool :=
  decide (1 ≤ r.tested) && decide (v.sampleMin ≤ r.tested) && decide (v.learnMin ≤ b.count) && !(offendingBins r v b).isEmpty

/-- R51: an unlearned baseline set. -/
def Baseline.zero : Baseline := { values := Vector.replicate 16 0, count := 0 }

/-- R52: what a reader of a lot's step receives: the set, or an unlearned one, and whether the lot is current. -/
def State.readBaselineOf (s : State) (l : Lot) (step : Nat) : Baseline × Bool :=
  match s.product? l.product with
  | none => (Baseline.zero, false)
  | some e =>
    if step = 0 then (Baseline.zero, false)
    else match e.baselines[step - 1]? with
      | none => (Baseline.zero, false)
      | some b => (b, l.revision == e.revision)

/-- R52, R71: the lot's revision equals that of its product's entry. -/
def State.lotCurrent (s : State) (l : Lot) : Bool :=
  match s.product? l.product with | none => false | some e => l.revision == e.revision

/-- R157: one value moves toward the record's fraction, the step truncated toward zero. -/
def moveValue (shift old fraction : Nat) : Nat := ((old : Int) + Int.tdiv ((fraction : Int) - (old : Int)) (2 ^ shift)).toNat

/-- R156, R157: the set after an update by a record. -/
def Baseline.learn (b : Baseline) (r : Insertion) (v : Version) : Baseline :=
  if b.count = 0 then { values := Vector.ofFn fun i => fractionOf r.bins[i] r.tested, count := 1 }
  else { values := Vector.ofFn fun i => moveValue v.shift b.values[i] (fractionOf r.bins[i] r.tested)
         count := if b.count < 255 then b.count + 1 else 255 }

/-- R53: the catalog writes a baseline set of a product's step, where the revision still equals the entry's. -/
def State.writeBaseline (s : State) (product : ProductNo) (step revision : Nat) (b : Baseline) : State :=
  match s.product? product with
  | none => s
  | some e =>
    if e.revision = revision ∧ step ≠ 0 then s.putProduct { e with baselines := e.baselines.set (step - 1) b } else s

/-- R155, R158: the baseline update of a clean close, where its conditions hold. -/
def State.baselineUpdate (s : State) (l : Lot) (r : Insertion) : State :=
  let read := s.readBaselineOf l l.currentStep
  if r.retests = 0 ∧ l.snapshot.sampleMin ≤ r.tested ∧ read.2 = true then
    s.writeBaseline l.product l.currentStep l.revision (read.1.learn r l.snapshot)
  else s

end Sys2Proof.Machine
end

