-- ==== Sys2Proof/Machine/Tally.lean ====
section
/-! DEFINITION. The Tally Unit (Chapter 8): tallies, temperature samples, END reports and the closes, and the step
progression of R65. -/

namespace Sys2Proof.Machine

/-! ### Findings of the Tally Unit and the Hold Monitor, with the details of R160's table -/

def raisedCountOver (tested dropped : Nat) : Raised := { cause := .countOver, detail := u24 tested ++ u16 dropped, bins := [] }
def raisedTallyGap (first second : Byte) : Raised := { cause := .tallyGap, detail := [first, second], bins := [] }
def raisedCountShort (tested allowance : Nat) : Raised :=
  { cause := .countShort, detail := u24 tested ++ u16 allowance, bins := [] }
def raisedExcursion (sample : Int) : Raised := { cause := .tempExcursion, detail := i16 sample ++ u8 1, bins := [] }
def raisedNoSample : Raised := { cause := .tempExcursion, detail := u16 0 ++ u8 0, bins := [] }
def raisedBinLimit (bins : List Bin) : Raised := { cause := .binLimit, detail := u16 (binSet bins), bins := bins }
def raisedYieldLow (y tested : Nat) : Raised := { cause := .yieldLow, detail := u16 y ++ u24 tested, bins := [] }
def raisedCellFault (cause : CloseCause) (number : Nat) : Raised :=
  { cause := .cellFault, detail := u8 cause.code ++ u16 number, bins := [] }
def raisedMismatch (tester : Place) : Raised := { cause := .programMismatch, detail := u8 tester.val, bins := [] }

/-- R136, R140: COUNT_OVER of a record whose tested count is above its input. -/
def checkCountOver (r : Insertion) : List Raised :=
  match r.input with
  | some input => if input < r.tested then [raisedCountOver r.tested 0] else []
  | none => []

/-- R140: COUNT_SHORT. -/
def checkCountShort (r : Insertion) (allowance : Nat) : List Raised :=
  match r.input with
  | some input => if r.tested + allowance < input then [raisedCountShort r.tested allowance] else []
  | none => []

/-- R140: the no-sample TEMP_EXCURSION of a complete close. -/
def checkNoSample (r : Insertion) : List Raised := if r.extremes = none then [raisedNoSample] else []

/-- R151 to R153: the checks of the Hold Monitor, yield first and then bin limit. -/
def monitorChecks (running : Bool) (r : Insertion) (v : Version) (b : Baseline) : List Raised :=
  (if yieldLow running r v then [raisedYieldLow (yieldOf r.good r.tested) r.tested] else []) ++
  (if binLimitFound r v b then [raisedBinLimit (offendingBins r v b)] else [])

/-! ### Tallies (R134 to R136) -/

/-- R135: the sum of the increments. -/
def incrementSum (incs : List Nat) : Nat := (allBins.map fun b => incs.getD b.val 0).sum

/-- R135: the part of the increments that falls in good bins. -/
def goodSum (v : Version) (incs : List Nat) : Nat := (allBins.map fun b => if v.good[b] then incs.getD b.val 0 else 0).sum

/-- R135: a tally added to a record. -/
def Insertion.add (r : Insertion) (v : Version) (incs : List Nat) : Insertion :=
  { r with
    tested := r.tested + incrementSum incs
    good := r.good + goodSum v incs
    bins := Vector.ofFn fun b => r.bins[b] + incs.getD b.val 0 }

/-- R135, R136: a tally applied to the current record of a lot, or dropped whole with COUNT_OVER, and its checks. -/
def State.applyTally (s : State) (n : LotNo) (incs : List Nat) : State :=
  match s.lot? n with
  | none => s
  | some l =>
    match l.current with
    | none => s
    | some r =>
      if Config.countMax < r.tested + incrementSum incs then s.finding n (raisedCountOver r.tested (incrementSum incs))
      else
        let r' := r.add l.snapshot incs
        let s := s.modLot n fun l => l.modCurrent fun i => i.add l.snapshot incs
        s.raiseAll n (checkCountOver r' ++ monitorChecks true r' l.snapshot (s.readBaselineOf l l.currentStep).1)

/-- R134: a TALLY of the running segment is classified by its sequence as duplicate, next or gap. -/
def State.takeTally (s : State) (n : LotNo) (seq : Byte) (incs : List Nat) : State :=
  match s.lot? n with
  | none => s
  | some l =>
    match l.current with
    | none => s
    | some r =>
      if seq = r.lastSeq then s
      else
        let s := s.modLot n fun l => l.modCurrent fun i => { i with lastSeq := seq }
        let s := if seq = r.lastSeq + 1 then s else s.finding n (raisedTallyGap (r.lastSeq + 1) seq)
        s.applyTally n incs

/-! ### Temperature (R137) -/

/-- The band of a step, ends included (R44). -/
def RouteStep.inWindow (st : RouteStep) (z : Int) : Bool :=
  decide (st.setpoint - (st.window : Int) ≤ z) && decide (z ≤ st.setpoint + (st.window : Int))

/-- R137: the temperature extremes after a sample. -/
def widen (e : Option (Int × Int)) (z : Int) : Option (Int × Int) :=
  match e with
  | none => some (z, z)
  | some (lo, hi) => some (if z < lo then z else lo, if hi < z then z else hi)

/-- R137: a sample updates the extremes and, where the cell is RUNNING, is judged against the step's band. -/
def State.takeSample (s : State) (n : LotNo) (z : Int) (cellRunning : Bool) : State :=
  match s.lot? n with
  | none => s
  | some l =>
    let s := s.modLot n fun l => l.modCurrent fun i => { i with extremes := widen i.extremes z }
    match l.stepAt l.currentStep with
    | none => s
    | some st => if cellRunning && !st.inWindow z then s.finding n (raisedExcursion z) else s

/-! ### Step progression (R65, R66) -/

/-- R66: the lot becomes COMPLETE with its final step's good count as ship quantity, and LOT_COMPLETE is posted. -/
def State.completeLot (s : State) (l : Lot) (good : Nat) : State :=
  let s := s.modLot l.number fun l => { l with state := .complete, cell := none, shipQuantity := some good }
  s.post .lotComplete l.number (u32 good ++ u8 l.currentStep ++ u8 l.snapshot.steps.length)

/-- R65: the lot at its next step, whose input is the good count. -/
def Lot.advance (l : Lot) (good : Nat) : Lot :=
  { l.modRecord (l.currentStep + 1) fun i => { i with input := some good } with
    currentStep := l.currentStep + 1, state := .waiting, cell := none }

/-- R65: the step progression of a lot. -/
def State.progress (s : State) (n : LotNo) : State :=
  match s.lot? n with
  | none => s
  | some l =>
    match l.current with
    | none => s
    | some r =>
      if r.good = 0 ∨ l.snapshot.steps.length ≤ l.currentStep then s.completeLot l r.good
      else ((s.modLot n fun l => l.advance r.good).takeStamp n).enterQueue n

/-! ### Closes (R139 to R146) -/

/-- The cell as a segment leaves it (R139), in the state its own rule gives. -/
def Cell.segmentEnded (x : Cell) (after : CellState) : Cell :=
  { x with state := after, work := none, prep := none, insertion := none, phaseDeadline := none }

/-- R139: the end of a segment: the lot is WAITING with no cell, the record's number is removed and the cell takes its
state; `load` says whether the recovery timer is loaded. -/
def State.endSegment (s : State) (c : CellNo) (n : LotNo) (after : CellState) (load : Bool) : State :=
  let s := s.modLot n fun l => (l.modCurrent fun i => { i with number := none }).unassigned
  let s := s.modCell c fun x =>
    let x := x.segmentEnded after
    if load then x.loadRecovery s.policy.recoveryTime else x
  if after = .idle then s.trigger else s

/-- R146: INSERTION_CLOSED, from the record as the close leaves it. -/
def State.postClosed (s : State) (l : Lot) (r : Insertion) (cause : CloseCause) : State :=
  s.post .insertionClosed l.number
    (u8 l.currentStep ++ u8 r.outcome.code ++ u8 cause.code ++ u24 r.tested ++ u16 (r.yieldAtClose.getD 65535))

/-- R140: the findings of a complete close, in the order of its checks. -/
def closeChecks (gap : List Raised) (r : Insertion) (v : Version) (b : Baseline) : List Raised :=
  gap ++ checkCountOver r ++ checkCountShort r v.lossAllowance ++ checkNoSample r ++ monitorChecks false r v b

/-- R140: the yield at close. -/
def closeYield (r : Insertion) : Option Nat := if 1 ≤ r.tested then some (yieldOf r.good r.tested) else none

/-- R141: what the complete close decides once its checks have run. -/
def State.settleComplete (s : State) (n : LotNo) : State :=
  match s.lot? n with
  | none => s
  | some l =>
    match l.current with
    | none => s
    | some r =>
      let clean := l.holds.isEmpty
      let r' := { r with outcome := if clean then InsOutcome.completeClean else .completeHeld, yieldAtClose := closeYield r }
      let s := s.modLot n fun l => l.modCurrent fun _ => r'
      let s := s.postClosed l r' .endComplete
      if clean then (s.baselineUpdate l r').progress n else s

/-- R140, R141: a complete close of the segment on a cell. -/
def State.closeComplete (s : State) (c : CellNo) (gap : List Raised) : State :=
  match s.cellLot c with
  | none => s
  | some l =>
    let s := s.endSegment c l.number .idle false
    match l.current with
    | none => s
    | some r =>
      (s.raiseAll l.number (closeChecks gap r l.snapshot (s.readBaselineOf l l.currentStep).1)).settleComplete l.number

/-- R142: what the partial close decides once its findings are handed over. -/
def State.settlePartial (s : State) (n : LotNo) (cause : CloseCause) : State :=
  match s.lot? n with
  | none => s
  | some l =>
    match l.current with
    | none => s
    | some r =>
      let r' := { r with outcome := InsOutcome.partialHeld }
      let s := s.modLot n fun l => l.modCurrent fun _ => r'
      (s.postClosed l r' cause).enterQueueIfUnheld n

/-- R142: a partial close of the segment on a cell, which becomes `after`; `fault` says whether it is asked with CELL_FAULT. -/
def State.closePartial (s : State) (c : CellNo) (cause : CloseCause) (after : CellState) (load fault : Bool)
    (gap : List Raised) : State :=
  match s.cellLot c with
  | none => s
  | some l =>
    let number := ((s.cell c).insertion).getD 0
    let s := s.endSegment c l.number after load
    let faults := if fault then [raisedCellFault cause number] else []
    (s.raiseAll l.number (gap ++ faults)).settlePartial l.number cause

/-- R138, R91: an END of the running segment: the gap is carried into the close, which is complete or partial by its
stopped flag. -/
def State.takeEnd (s : State) (c : CellNo) (finalSeq : Byte) (stopped : Bool) : State :=
  match s.cellLot c with
  | none => s
  | some l =>
    match l.current with
    | none => s
    | some r =>
      let gap := if finalSeq = r.lastSeq then [] else [raisedTallyGap r.lastSeq finalSeq]
      if stopped then s.closePartial c .endStopped .idle false false gap else s.closeComplete c gap

end Sys2Proof.Machine
end

