-- ==== Sys2Proof/Machine/Start.lean ====
section
/-! DEFINITION. The offer of a start (R87, R88) and the Slot Manager's answer to a readiness request (R86). -/

namespace Sys2Proof.Machine

/-- R87: the soak is complete: it has started, and it is 0 or its deadline has expired. -/
def Prep.soakComplete (p : Prep) (soak : Nat) : Bool :=
  p.soakStart.isSome && (soak == 0 || p.soakDeadline.any (fun d => d.expired))

/-- R87: the soak start is discarded and the soak deadline cancelled. -/
def Prep.discardSoak (p : Prep) : Prep := { p with soakStart := none, soakDeadline := none }

/-- Changes the preparation record of a cell, if it has one. -/
def Cell.modPrep (x : Cell) (f : Prep → Prep) : Cell := { x with prep := x.prep.map f }

/-- Section 5.1: a PREPARING cell that has not offered its start. -/
def Cell.beforeStart (x : Cell) : Bool := x.state == .preparing && x.insertion.isNone

/-- R88: all three parts of a preparation are done. -/
def Cell.readyToStart (x : Cell) (soak : Nat) : Bool :=
  x.beforeStart && x.prep.any (fun p => p.setpointDone && p.programDone && p.soakComplete soak)

/-- R88: the number the counter holds after one is taken, from 65535 to 1. -/
def nextNumber (n : Nat) : Nat := if n = 65535 then 1 else n + 1

/-- R88: the cell takes an insertion number and offers START INSERTION; an offer that fails at once ends as R89 gives.
The kind of the handler place is not tested: DEDUCED (log 23). -/
def State.offerStart (s : State) (c : CellNo) : State :=
  match (s.cell c).dock, (s.cell c).work, s.cellLot c with
  | some d, some w, some l =>
    match l.recordAt w.step with
    | none => s
    | some r =>
      let number := s.nextInsertion
      let s := { s with nextInsertion := nextNumber number }
      let s := s.modCell c fun x => { x with insertion := some number }
      let o := s.offer d.handler (.startInsertion number w.lot w.step (r.input.getD 0 - r.tested))
      match o.2 with
      | none => o.1
      | some _ => o.1.cancel c .startFailed
  | _, _, _ => s

/-- R88: offers the start when the last of the three parts is done. -/
def State.checkStart (s : State) (c : CellNo) : State :=
  match s.cellStep c with
  | none => s
  | some st => if (s.cell c).readyToStart st.soak then s.offerStart c else s

/-- R86: a readiness request of a cell is answered ready. -/
def State.programReady (s : State) (c : CellNo) : State :=
  if (s.cell c).state = .preparing then
    (s.modCell c fun x => x.modPrep fun p => { p with programDone := true }).checkStart c
  else s

/-- R86: a readiness request of a cell is answered failed for want of a plan or by an outcome of its commands. -/
def State.programFailed (s : State) (c : CellNo) : State :=
  if (s.cell c).state = .preparing then s.cancel c .programFailed else s

end Sys2Proof.Machine
end

