-- ==== Sys2Proof/Machine/Slots.lean ====
section
/-! DEFINITION. The Slot Manager (Chapter 6): readiness plans, the operations on a tester and the ends of its commands. -/

namespace Sys2Proof.Machine

/-! ### Slots and plans -/

def Tester.slot (t : Tester) (k : SlotNo) : Slot := t.slots[k]
def Tester.setSlot (t : Tester) (k : SlotNo) (x : Slot) : Tester := { t with slots := t.slots.set k x }

/-- R98: a tester is quiet. -/
def Tester.quiet (t : Tester) : Bool := t.opState == .idle && t.outstanding.isNone && t.next.isNone

/-- R101: an error flag is set. -/
def Tester.errorSet (t : Tester) : Bool := t.loadError || t.eraseError

/-- R100: a slot at or above the protect floor is protected. -/
def Tester.protected_ (t : Tester) (k : SlotNo) : Bool := t.protectFloor ≤ k.val

/-- Section 6.1: a slot matches a program identity. -/
def Slot.holdsProgram (x : Slot) (id : ProgramId) : Bool :=
  (x.state == .verified || x.state == .stale) && x.program == some (id.id, id.revision) && x.check == some id.check

/-- R111: of two last-selected ticks, `a` is older than `b`; an absent tick is older than any. -/
def olderTick (now : Tick) (a b : Option Tick) : Bool :=
  match a, b with
  | none, some _ => true
  | some x, some y => decide (elapsed now y < elapsed now x)
  | _, none => false

/-- R111: the SELECT row: the selected slot if it matches, else the lowest matching VERIFIED slot. -/
def Tester.selectSlot (t : Tester) (id : ProgramId) : Option SlotNo :=
  let fits := fun k => (t.slot k).state == .verified && (t.slot k).holdsProgram id
  match t.selected with
  | some k => if fits k then some k else allSlots.find? fits
  | none => allSlots.find? fits

/-- R111: the candidates for eviction: unlocked, not EMPTY, below P and not the selected slot. -/
def Tester.evictable (t : Tester) (k : SlotNo) : Bool :=
  !t.protected_ k && !(t.slot k).locked && (t.slot k).state != .empty && t.selected != some k

/-- R111: the eviction target: the candidate last selected longest ago, ties to the lowest index. -/
def Tester.evictionTarget (t : Tester) (now : Tick) : Option SlotNo :=
  (allSlots.filter t.evictable).foldl (init := none) fun best k =>
    match best with
    | none => some k
    | some b => if olderTick now (t.slot k).lastSelected (t.slot b).lastSelected then some k else some b

/-- R111: the readiness plan of a tester for a program identity; none is plan none. -/
def Tester.plan (t : Tester) (id : ProgramId) (now : Tick) : Option Plan :=
  match t.selectSlot id with
  | some k => some (.select k)
  | none =>
    if t.errorSet then none
    else match allSlots.find? (fun k => !t.protected_ k && (t.slot k).state == .stale && (t.slot k).holdsProgram id) with
      | some k => some (.verify k)
      | none =>
        match allSlots.find? (fun k => !t.protected_ k && (t.slot k).state == .empty) with
        | some k => some (.load k)
        | none => (t.evictionTarget now).map Plan.eraseLoad

/-- R111: the first command of a plan and its slot. -/
def Plan.first : Plan → TesterOp × SlotNo
  | .select k => (.select, k)
  | .verify k => (.verify, k)
  | .load k => (.load, k)
  | .eraseLoad k => (.erase, k)

/-- A docked cell that holds the tester is PREPARING or RUNNING, which holds the selected slot (R105, R106, R110, R112). -/
def State.selectedHeld (s : State) (p : Place) : Bool :=
  match s.cellOfTester p with
  | none => false
  | some c => (s.cell c).state == .preparing || (s.cell c).state == .running

/-! ### Answering a readiness request (R86, R98) -/

/-- R98, R112: the request is answered: it is removed and a next command that belongs to it is dropped. -/
def Tester.requestAnswered (t : Tester) : Tester := { t with readiness := none, next := none }

/-- R112: the request is answered failed; where the cause is the tester's loss or restart the cell lets it pass (R86). -/
def State.answerFailed (s : State) (p : Place) (o : OpOutcome) : State :=
  match (s.tester p).readiness with
  | none => s
  | some r =>
    let s := s.modTester p Tester.requestAnswered
    if o = .lost ∨ o = .restart then s else s.programFailed r.cell

/-- R112: the request is answered ready. -/
def State.answerReady (s : State) (p : Place) : State :=
  match (s.tester p).readiness with
  | none => s
  | some r => (s.modTester p Tester.requestAnswered).programReady r.cell

/-- The command of a kind that runs on a tester was started by its readiness request (R112). -/
def Tester.runsFor (t : Tester) (op : TesterOp) : Bool :=
  t.next.isNone && t.readiness.any (fun r => r.stage == op) &&
    (op == .select || t.operation.any (fun o => o.origin == .dispatch))

/-! ### Ends of operations -/

/-- R103: the slot as a load leaves it; `carried` is the identity a SLOT CHECK carried. -/
def loadedSlot (x : Slot) (o : Operation) (oc : OpOutcome) (carried : Option ProgramId) : Slot :=
  match oc, carried with
  | .done, _ =>
    { x with
      state := .verified, program := some (o.expected.id, o.expected.revision), check := some o.expected.check
      lastSelected := none }
  | .mismatch, some id => { x with state := .fault, program := some (id.id, id.revision), check := some id.check }
  | _, _ => { x with state := .fault, program := some (o.expected.id, o.expected.revision), check := none }

/-- R103, R104: a load ends: its slot, the load-error flag, LOAD_RESULT where it is reported, and the return to IDLE. -/
def State.closeLoad (s : State) (p : Place) (o : Operation) (oc : OpOutcome) (carried : Option ProgramId) : State :=
  let s := s.modTester p fun t =>
    { t.setSlot o.slot (loadedSlot (t.slot o.slot) o oc carried) with
      opState := .idle, operation := none, loadError := t.loadError || oc != .done }
  let s := if o.reported then
    s.post .loadResult (subj p.val) (u8 o.slot.val ++ u8 oc.code ++ u8 o.origin.code ++ u16 o.expected.id ++
      u8 o.expected.revision ++ u8 o.members) else s
  s.trigger

/-- R105: the slot as an erase leaves it. -/
def erasedSlot (x : Slot) (oc : OpOutcome) : Slot :=
  if oc = .done then Slot.reset else { x with state := .fault }

/-- R105: what an erase does to its tester: its slot, the selected slot and the erase-error flag. -/
def Tester.erased (t : Tester) (k : SlotNo) (oc : OpOutcome) : Tester :=
  { t.setSlot k (erasedSlot (t.slot k) oc) with
    selected := if oc = .done ∧ t.selected = some k then none else t.selected
    eraseError := t.eraseError || oc != .done }

/-- R105: ERASE_RESULT, with the slot's locked flag after the erase. -/
def State.postErase (s : State) (p : Place) (o : Operation) (oc : OpOutcome) : State :=
  if o.reported then
    s.post .eraseResult (subj p.val)
      (u8 o.slot.val ++ u8 oc.code ++ u8 o.origin.code ++ yesNo ((s.tester p).slot o.slot).locked)
  else s

/-- R105: an erase ends and the tester returns to IDLE. -/
def State.closeErase (s : State) (p : Place) (o : Operation) (oc : OpOutcome) : State :=
  let s := s.modTester p fun t => { t.erased o.slot oc with opState := .idle, operation := none }
  (s.postErase p o oc).trigger

/-- R106: a verify ends. -/
def State.closeVerify (s : State) (p : Place) (o : Operation) (oc : OpOutcome) : State :=
  let s := s.modTester p fun t =>
    { t.setSlot o.slot { t.slot o.slot with state := if oc = .done then .verified else .fault } with
      opState := .idle, operation := none, loadError := t.loadError || oc != .done }
  let s := if o.reported then
    s.post .verifyResult (subj p.val) (u8 o.slot.val ++ u8 oc.code ++ u8 o.origin.code) else s
  s.trigger

/-- R110: the purge ends, at a failing slot and outcome or with 255 and 0. -/
def State.closePurge (s : State) (p : Place) (erased failing outcome : Nat) : State :=
  let s := s.modTester p fun t => { t with opState := .idle, operation := none }
  (s.post .purgeDone (subj p.val) (u8 erased ++ u8 failing ++ u8 outcome)).trigger

/-- R103, R105, R106, R107, R110: a command of the Slot Manager that is awaited ends in an outcome other than DONE. -/
def State.commandFailed (s : State) (p : Place) (op : TesterOp) (oc : OpOutcome) (carried : Option ProgramId) : State :=
  let mine := (s.tester p).runsFor op
  let s := match op, (s.tester p).operation with
    | .select, _ => s.modTester p fun t => { t with selected := none, loadError := true }
    | .load, some o => s.closeLoad p o oc carried
    | .verify, some o => s.closeVerify p o oc
    | .erase, some o =>
      if (s.tester p).opState = .purging then
        (s.modTester p fun t => t.erased o.slot oc).closePurge p o.erased o.slot.val oc.code
      else s.closeErase p o oc
    | _, none => s
  if mine then s.answerFailed p oc else s

/-! ### Starting commands -/

/-- R98: offers a command of the Slot Manager and holds it as the command outstanding, awaited; an offer that fails at
once ends with the outcome LOST (R99, log 17). -/
def State.issue (s : State) (p : Place) (op : TesterOp) (slot : SlotNo) (id revision : Nat) : State :=
  let s := s.modTester p fun t => { t with outstanding := some { op := op, slot := slot, awaited := true } }
  let o := s.offer p (.slotCommand op slot id revision)
  match o.2 with
  | none => o.1
  | some _ => (o.1.modTester p fun t => { t with outstanding := none }).commandFailed p op .lost none

/-- R103: a load starts on a tester. -/
def State.startLoad (s : State) (p : Place) (slot : SlotNo) (id : ProgramId) (origin : Origin) (reported : Bool)
    (members : Nat) : State :=
  let s := s.modTester p fun t =>
    { t.setSlot slot { t.slot slot with state := .loading, program := some (id.id, id.revision), check := none } with
      opState := .loading
      operation := some { slot := slot, origin := origin, reported := reported, members := members, expected := id
                          erased := 0, handled := none } }
  s.issue p .load slot id.id id.revision

/-- The recorded identity of a slot (R106). -/
def Slot.recorded (x : Slot) : ProgramId :=
  { id := (x.program.getD (0, 0)).1, revision := (x.program.getD (0, 0)).2, check := x.check.getD 0 }

/-- R105: an erase starts on a tester. -/
def State.startErase (s : State) (p : Place) (slot : SlotNo) (origin : Origin) : State :=
  let s := s.modTester p fun t =>
    { t.setSlot slot { t.slot slot with state := .erasing } with
      opState := .erasing
      operation := some { slot := slot, origin := origin, reported := true, members := 1, expected := (t.slot slot).recorded
                          erased := 0, handled := none } }
  s.issue p .erase slot 0 0

/-- R106: a verify starts on a tester; the slot keeps its state. -/
def State.startVerify (s : State) (p : Place) (slot : SlotNo) (origin : Origin) : State :=
  let s := s.modTester p fun t =>
    { t with
      opState := .verifying
      operation := some { slot := slot, origin := origin, reported := true, members := 1, expected := (t.slot slot).recorded
                          erased := 0, handled := none } }
  s.issue p .verify slot 0 0

/-- R112: the readiness request of a tester comes to a stage: its command is started, with origin DISPATCH. -/
def State.startStage (s : State) (p : Place) (op : TesterOp) (slot : SlotNo) (id : ProgramId) : State :=
  let s := s.modTester p fun t => { t with readiness := t.readiness.map fun r => { r with stage := op } }
  match op with
  | .load => s.startLoad p slot id .dispatch true 1
  | .erase => s.startErase p slot .dispatch
  | .verify => s.startVerify p slot .dispatch
  | .select => s.issue p .select slot 0 0

/-- R110: the slots a purge takes: below P, not EMPTY, not the selected slot while it is held, unlocked unless the
override is on. -/
def State.purgeable (s : State) (p : Place) (k : SlotNo) : Bool :=
  let t := s.tester p
  !t.protected_ k && (t.slot k).state != .empty && !(t.selected == some k && s.selectedHeld p) &&
    (!(t.slot k).locked || t.lockOverride)

/-- R110: the next step of a purge: the lowest slot above the last one handled, or the end of the purge. -/
def State.purgeStep (s : State) (p : Place) : State :=
  match (s.tester p).operation with
  | none => s
  | some o =>
    match allSlots.find? (fun k => (match o.handled with | none => true | some h => decide (h < k)) && s.purgeable p k) with
    | none => s.closePurge p o.erased 255 0
    | some k =>
      let s := s.modTester p fun t =>
        { t.setSlot k { t.slot k with state := .erasing } with operation := some { o with slot := k, handled := some k } }
      s.issue p .erase k 0 0

/-! ### Ends that are DONE -/

/-- R107: a done SELECT writes the selected slot and its last-selected tick. -/
def State.selectWritten (s : State) (p : Place) (slot : SlotNo) : State :=
  s.modTester p fun t => { t.setSlot slot { t.slot slot with lastSelected := some s.tick } with selected := some slot }

/-- R103, R105 to R107, R110, R112: an awaited command ends DONE, and the readiness request it belongs to goes on. -/
def State.commandDone (s : State) (p : Place) (op : TesterOp) (slot : SlotNo) : State :=
  let mine := (s.tester p).runsFor op
  match op, (s.tester p).operation, (s.tester p).readiness with
  | .select, _, _ => (s.selectWritten p slot).answerReady p
  | .load, some o, r =>
    let s := s.closeLoad p o .done none
    if mine then s.startStage p .select o.slot (r.elim o.expected (fun r => r.program)) else s
  | .verify, some o, r =>
    let s := s.closeVerify p o .done
    if mine then s.startStage p .select o.slot (r.elim o.expected (fun r => r.program)) else s
  | .erase, some o, r =>
    if (s.tester p).opState = .purging then
      (s.modTester p fun t =>
        { t.erased o.slot .done with operation := some { o with erased := o.erased + 1 } }).purgeStep p
    else match mine, r with
      | true, some r => ((s.modTester p fun t => t.erased o.slot .done).postErase p o .done).startStage p .load o.slot r.program
      | _, _ => s.closeErase p o .done
  | _, none, _ => s

/-! ### The end of a command (R98, R99) -/

/-- R99: the outcome of an end, with the identity a SLOT CHECK of a MISMATCH carried and whether the report is read. -/
def readOutcome (op : TesterOp) (slot : SlotNo) (expected : ProgramId) (e : End) (r : Option Report) :
    OpOutcome × Option ProgramId × Bool :=
  match e with
  | .failed => (.failed, none, false)
  | .timeout => (.timeout, none, false)
  | .restart => (.restart, none, false)
  | .lost | .notOnline | .occupied | .retired => (.lost, none, false)
  | .done =>
    if op = .erase ∨ op = .select then (.done, none, false)
    else match r with
      | some (.slotCheck sl id rev chk) =>
        if sl = slot.val then
          if (⟨id, rev, chk⟩ : ProgramId) = expected then (.done, none, true) else (.mismatch, some ⟨id, rev, chk⟩, true)
        else (.noReport, none, false)
      | _ => (.noReport, none, false)

/-- R99: an awaited command ends; a report that is not read is stray (before the outcome acts, log 12). -/
def State.awaitedEnd (s : State) (p : Place) (op : TesterOp) (slot : SlotNo) (e : End) (r : Option Report) : State :=
  let expected := ((s.tester p).operation.map (fun o => o.expected)).getD ⟨0, 0, 0⟩
  let oc := readOutcome op slot expected e r
  let s := if oc.2.2 then s else s.strayOpt p r
  if oc.1 = .done then s.commandDone p op slot else s.commandFailed p op oc.1 oc.2.1

/-- R98: a command that is not awaited ends: a done SELECT still writes, and any report is stray. -/
def State.unawaitedEnd (s : State) (p : Place) (op : TesterOp) (slot : SlotNo) (e : End) (r : Option Report) : State :=
  let s := if op = .select ∧ e = .done then s.selectWritten p slot else s
  s.strayOpt p r

/-- R112: a waiting command is taken as a plan computed afresh where an operation ran on the tester as it began to wait, and
where it is the ERASE of a slot that QUALIFY SLOT has locked meanwhile with the lock override off, which R108 keeps from being
erased: DESIGN CHOICE (log 22). -/
def Tester.replans (t : Tester) (n : NextCommand) : Bool :=
  n.afterOp || (n.op == .erase && (t.slot n.slot).locked && !t.lockOverride)

/-- R98, R112: the next command is offered once the outstanding one has ended, from a plan computed afresh where one is due. -/
def State.offerNext (s : State) (p : Place) : State :=
  match (s.tester p).outstanding, (s.tester p).next, (s.tester p).readiness with
  | none, some n, some r =>
    let s := s.modTester p fun t => { t with next := none }
    if (s.tester p).replans n then
      match (s.tester p).plan r.program s.tick with
      | none => (s.modTester p Tester.requestAnswered).programFailed r.cell
      | some plan =>
        let s := s.modTester p fun t => { t with readiness := some { r with plan := plan, stage := plan.first.1 } }
        s.startStage p plan.first.1 plan.first.2 r.program
    else s.startStage p n.op n.slot r.program
  | none, some _, none => s.modTester p fun t => { t with next := none }
  | _, _, _ => s

/-- R98: an end that drops a next command unoffered. -/
def End.dropsNext (e : End) : Bool := e == .restart || e == .lost || e == .retired

/-- R98, R99, R115: a command of the Slot Manager ends, with the report carried, and the next command is then offered. -/
def State.testerEnd (s : State) (p : Place) (op : TesterOp) (slot : SlotNo) (e : End) (r : Option Report) : State :=
  let awaited := (s.tester p).outstanding.any (fun o => o.awaited)
  let s := s.modTester p fun t => { t with outstanding := none, next := if e.dropsNext then none else t.next }
  let s := if awaited && e != .retired then s.awaitedEnd p op slot e r else s.unawaitedEnd p op slot e r
  s.offerNext p

/-! ### Readiness requests (R112) -/

/-- R112: a readiness request of a cell arrives at a tester. The kind of the place is not tested: where a docked tester place has
come back as a HANDLER, the request reads and changes the tester record of that place, which Section 6.1 holds unchanged and
unused while the place is not enrolled as TESTER: DEDUCED (log 23). -/
def State.requestReadiness (s : State) (c : CellNo) (p : Place) (id : ProgramId) : State :=
  match (s.tester p).plan id s.tick with
  | none => s.programFailed c
  | some plan =>
    let waits := (s.tester p).outstanding.isSome
    let afterOp := (s.tester p).opState != .idle
    let s := s.modTester p fun t =>
      { t with readiness := some { cell := c, program := id, plan := plan, stage := plan.first.1 } }
    if waits then
      s.modTester p fun t => { t with next := some { op := plan.first.1, slot := plan.first.2, afterOp := afterOp } }
    else s.startStage p plan.first.1 plan.first.2 id

/-! ### Restart, loss and retirement of a tester (R114, R115) -/

/-- The command an operation state runs. -/
def OpState.command : OpState → TesterOp
  | .loading => .load
  | .verifying => .verify
  | .erasing | .purging | .idle => .erase

/-- R114, R115: an operation still running ends with an outcome and an outstanding readiness request is answered failed;
the command that stood queued is no longer awaited. -/
def State.breakOff (s : State) (p : Place) (oc : OpOutcome) : State :=
  let s := if (s.tester p).opState = .idle then s
    else s.commandFailed p (s.tester p).opState.command oc none
  let s := s.answerFailed p oc
  s.modTester p fun t => { t with outstanding := t.outstanding.map fun o => { o with awaited := false } }

/-- R114, R115: every VERIFIED slot becomes STALE and the selected slot absent. -/
def Tester.staled (t : Tester) : Tester :=
  { t with
    selected := none
    slots := Vector.ofFn fun k => let x := t.slots[k]; if x.state = .verified then { x with state := .stale } else x }

/-- R114: the first three parts of the restart notice of a tester: its operation, its slots, and its RUNNING cell. -/
def State.testerRestarted (s : State) (p : Place) : State :=
  let s := s.breakOff p .restart
  let s := s.modTester p Tester.staled
  match s.cellOfTester p with
  | none => s
  | some c =>
    if (s.cell c).state = .running then
      let s := s.stopRequest c
      match (s.cell c).work with
      | some w => s.finding w.lot (raisedMismatch p)
      | none => s
    else s

end Sys2Proof.Machine
end

