-- ==== Sys2Proof/Machine/Handlers.lean ====
section
/-! DEFINITION. The Cell Controller's work (Chapter 5): entering SETUP and PREPARING, the ends of handler commands, the
handler's reports and alarm, and the notices of stations. -/

namespace Sys2Proof.Machine

/-! ### Entering PREPARING and SETUP (R83, R84) -/

/-- R85: a SET SETPOINT that fails: the commanded setpoint is absent. -/
def Cell.setpointLost (x : Cell) : Cell := { x with commanded := none }

/-- R83, R85: SET SETPOINT is offered and named as the preparation record's setpoint command. The second part says whether
the offer was taken; one that fails at once cancels the assignment. The kind of the place is not tested: DEDUCED (log 23). -/
def State.offerSetpoint (s : State) (c : CellNo) (handler : Place) (z : Int) : State × Bool :=
  let ref := s.nextRef
  let s := { s with nextRef := ref + 1 }
  let s := s.modCell c fun x => x.modPrep fun p => { p with setpointCommand := some ref }
  let o := s.offer handler (.setSetpoint ref z)
  match o.2 with
  | none => (o.1, true)
  | some _ => ((o.1.modCell c Cell.setpointLost).cancel c .setpointFailed, false)

/-- R83: the preparation record as a cell enters PREPARING. -/
def Prep.fresh (setpointDone : Bool) : Prep :=
  { setpointDone := setpointDone, programDone := false, soakStart := none, soakDeadline := none, setpointCommand := none }

/-- R83: a cell enters PREPARING. -/
def State.enterPreparing (s : State) (c : CellNo) : State :=
  match (s.cell c).dock, s.cellStep c with
  | some d, some st =>
    let done := decide ((s.cell c).commanded = some st.setpoint)
    let s := s.modCell c fun x => { x with state := .preparing, phaseDeadline := none, prep := some (Prep.fresh done) }
    let o := if done then (s, true) else s.offerSetpoint c d.handler st.setpoint
    if o.2 then o.1.requestReadiness c d.tester st.program else o.1
  | _, _ => s

/-- R84: a cell enters SETUP and posts KIT_NEEDED. -/
def State.enterSetup (s : State) (c : CellNo) : State :=
  match (s.cell c).dock, (s.cell c).work, s.cellStep c with
  | some d, some w, some st =>
    let s := s.modCell c fun x => { x with state := .setup, phaseDeadline := some (s.deadlineIn s.policy.setupTimeout) }
    s.post .kitNeeded (subj c.val) (u32 w.lot.toNat ++ u8 w.step ++ u8 st.kit ++ u8 d.kit)
  | _, _, _ => s

/-! ### Ends of SET SETPOINT (R85) -/

/-- R85: the preparation must command the setpoint again. -/
def State.setpointAgain (s : State) (c : CellNo) (handler : Place) (z : Int) : State :=
  ((s.modCell c fun x => x.modPrep fun p => { p.discardSoak with setpointDone := false }).offerSetpoint c handler z).1

/-- R85: the end of a SET SETPOINT with its reference and value, applied to the cell that holds the handler place. -/
def State.setpointEnd (s : State) (p : Place) (ref : Nat) (z : Int) (e : End) : State :=
  match s.cellOfHandler p with
  | none => s
  | some c =>
    let x := s.cell c
    let current := x.state == .preparing && x.prep.any (fun q => q.setpointCommand == some ref)
    let judged := x.beforeStart && x.prep.any (fun q => q.setpointDone)
    match e with
    | .lost | .restart | .retired => s
    | .done =>
      let s := s.modCell c fun x => { x with commanded := some z }
      if current then (s.modCell c fun x => x.modPrep fun q => { q with setpointDone := true }).checkStart c
      else match s.cellStep c with
        | none => s
        | some st => if judged && z != st.setpoint then s.setpointAgain c p st.setpoint else s
    | .failed | .timeout | .notOnline | .occupied =>
      let s := s.modCell c Cell.setpointLost
      if current then s.cancel c .setpointFailed
      else match s.cellStep c with
        | none => s
        | some st => if judged then s.setpointAgain c p st.setpoint else s

/-! ### Ends of START INSERTION (R89) -/

/-- R70: a segment start on the current record. -/
def Insertion.started (r : Insertion) (number : Nat) : Insertion :=
  { r with
    outcome := .running, number := some number, lastSeq := 255
    segments := if r.segments < 255 then r.segments + 1 else 255 }

/-- R89: a segment starts on a cell, with the number and quantity of the command. -/
def State.segmentStart (s : State) (c : CellNo) (number quantity : Nat) : State :=
  match s.cellLot c with
  | none => s
  | some l =>
    match l.current with
    | none => s
    | some r =>
      let s := s.modCell c fun x => { x with state := .running, prep := none }
      let s := s.modLot l.number fun l => { l.modCurrent (fun r => r.started number) with state := .running }
      s.post .insertionStarted l.number
        (u8 c.val ++ u8 l.currentStep ++ u16 number ++ u8 (r.started number).segments ++ u24 quantity)

/-- R89: the cell for which an end of START INSERTION is current. -/
def State.currentStart (s : State) (p : Place) (number : Nat) : Option CellNo :=
  match s.cellOfHandler p with
  | none => none
  | some c => if (s.cell c).state = .preparing ∧ (s.cell c).insertion = some number then some c else none

/-- R89: the end of a START INSERTION. -/
def State.startEnd (s : State) (p : Place) (number quantity : Nat) (e : End) : State :=
  match e, s.currentStart p number with
  | .done, some c => s.segmentStart c number quantity
  | .done, none => s.offerDrop p (.stopSegment number)
  | .timeout, some c => (s.cancel c .startFailed).offerDrop p (.stopSegment number)
  | .failed, some c => s.cancel c .startFailed
  | .notOnline, some c => s.cancel c .startFailed
  | .occupied, some c => s.cancel c .startFailed
  | _, _ => s

/-! ### Reports of a handler (R79 to R82) -/

/-- R80: a KIT report. -/
def State.kitReport (s : State) (c : CellNo) (family : Nat) : State :=
  let s := s.modCell c fun x => { x with dock := x.dock.map fun d => { d with kit := family } }
  match s.cellStep c with
  | none => s
  | some st =>
    match (s.cell c).state with
    | .setup => if family = st.kit then s.enterPreparing c else s
    | .preparing => if family = st.kit then s else s.cancel c .kitChanged
    | _ => s

/-- R81: a temperature clamped to -600..2000. -/
def clampTemp (z : Int) : Int := if z < -600 then -600 else if 2000 < z then 2000 else z

/-- R87: a sample of a PREPARING cell drives its soak. -/
def Prep.soakSample (q : Prep) (inside alarm : Bool) (now : Tick) (soak : Nat) : Prep :=
  match q.soakStart with
  | some _ => if inside then q else q.discardSoak
  | none =>
    if q.setpointDone && inside && !alarm then
      { q with
        soakStart := some now
        soakDeadline := if soak = 0 then none else some { deadline := { start := now, span := soak }, expired := false } }
    else q

/-- R81: a TEMP report. -/
def State.tempReport (s : State) (c : CellNo) (raw : Int) : State :=
  let z := clampTemp raw
  let s := s.modCell c fun x => { x with lastTemp := some (z, s.tick) }
  match (s.cell c).state with
  | .running | .stopping =>
    match (s.cell c).work with
    | some w => s.takeSample w.lot z ((s.cell c).state == .running)
    | none => s
  | .preparing =>
    match (s.cell c).dock, s.cellStep c with
    | some d, some st =>
      if (s.cell c).beforeStart then
        (s.modCell c fun x => x.modPrep fun q =>
          q.soakSample (st.inWindow z) (s.station d.handler).alarm s.tick st.soak).checkStart c
      else s
    | _, _ => s
  | _ => s

/-- R79: a report from a handler place is routed by kind within the cell that holds the place, or is stray. -/
def State.handlerReport (s : State) (p : Place) (r : Report) : State :=
  match s.cellOfHandler p with
  | none => s.stray p r
  | some c =>
    let x := s.cell c
    let runs := fun n : Nat => (x.state == .running || x.state == .stopping) && x.insertion == some n
    match r with
    | .kit family => s.kitReport c family
    | .temp z => s.tempReport c z
    | .tally n q incs =>
      match x.work with
      | some w => if runs n then s.takeTally w.lot q incs else s.stray p r
      | none => s.stray p r
    | .endOf n q stopped => if runs n then s.takeEnd c q stopped else s.stray p r
    | .identity _ _ _ | .passResult _ | .slotCheck _ _ _ _ => s.stray p r

/-- R82: an answer with the alarm active flag set reaches the cell that holds the handler place. A timer that it loads with a
RECOVERY_TIME of 0 has not fallen to 0, so it is no trigger of evaluation: DESIGN CHOICE (log 4). -/
def State.handlerAlarm (s : State) (p : Place) : State :=
  match s.cellOfHandler p with
  | none => s
  | some c =>
    s.modCell c fun x =>
      let x := x.loadRecovery s.policy.recoveryTime
      if x.beforeStart then x.modPrep Prep.discardSoak else x

/-! ### Notices (R94, R95) -/

/-- R94: the notice for a cell, whose handler or tester is lost. -/
def State.cellLostAs (s : State) (c : CellNo) (handler : Bool) : State :=
  let code := if handler then 2 else 3
  match (s.cell c).state with
  | .idle => (s.modCell c fun x => { x with state := .faulted }).postFaulted c code 0
  | .setup | .preparing => s.cancel c (if handler then .handlerLost else .testerLost)
  | .running | .stopping =>
    let x := s.cell c
    let s := s.postFaulted c code (x.work.elim 0 (fun w => w.lot))
    let s := s.closePartial c (if handler then .handlerLost else .testerLost) .faulted false true []
    match x.dock, x.insertion with
    | some d, some n => if !handler && x.state == .running then s.offerDrop d.handler (.stopSegment n) else s
    | _, _ => s
  | .empty | .faulted => s

/-- R94: a LOST notice for a place acts on the docked cell that holds it. -/
def State.cellLost (s : State) (p : Place) : State :=
  match s.cellOfHandler p, s.cellOfTester p with
  | some c, _ => s.cellLostAs c true
  | none, some c => s.cellLostAs c false
  | none, none => s

/-- R94: a FAULTED cell both of whose places are ONLINE becomes IDLE. That the kinds of the places are not tested, so that a place
enrolled again with the other kind than R75 gives it lets the cell recover, is DEDUCED (log 23). -/
def State.recoverCell (s : State) (c : CellNo) : State :=
  match (s.cell c).dock with
  | none => s
  | some d =>
    if (s.cell c).state = .faulted ∧ (s.station d.handler).state = .online ∧ (s.station d.tester).state = .online then
      let s := s.modCell c fun x => { x.loadRecovery s.policy.recoveryTime with state := .idle }
      (s.post .cellIdle (subj c.val) (u8 1 ++ u16 s.policy.recoveryTime)).trigger
    else s

/-- R94, R120: an ONLINE notice for a place of a docked cell, which is a trigger of evaluation. -/
def State.cellOnline (s : State) (p : Place) : State :=
  match s.cellOfHandler p, s.cellOfTester p with
  | some c, _ => (s.recoverCell c).trigger
  | none, some c => (s.recoverCell c).trigger
  | none, none => s

/-- R95: a restart notice for a handler place. -/
def State.handlerRestarted (s : State) (p : Place) : State :=
  match s.cellOfHandler p with
  | none => s
  | some c =>
    let s := s.modCell c Cell.setpointLost
    match (s.cell c).state with
    | .setup | .preparing => s.cancel c .handlerRestart
    | .running | .stopping => s.closePartial c .handlerRestart .idle false true []
    | .idle | .faulted | .empty => s

/-- R95: a restart notice for a tester place, as the Slot Manager passes it on. -/
def State.testerRestartCell (s : State) (p : Place) : State :=
  match s.cellOfTester p with
  | none => s
  | some c =>
    match (s.cell c).state with
    | .setup | .preparing => s.cancel c .testerRestart
    | .running | .stopping | .idle | .faulted | .empty => s

end Sys2Proof.Machine
end

