-- ==== Sys2Proof/Machine/Evaluation.lean ====
section
/-! DEFINITION. The Dispatch Unit (Chapter 7): the evaluation order, dispatchable cells, changeover classes, the arbitration
walk and the assignment; and the age promotion a tick brings (R119). -/

namespace Sys2Proof.Machine

/-! ### The evaluation order (R118) -/

/-- R118: the effective class of a lot at a tick. -/
def Lot.effectiveClass (l : Lot) (now : Tick) (ageStep : Nat) : Nat :=
  if ageStep = 0 then l.priority else l.priority - elapsed now l.enqueueTick / ageStep

/-- R118: the order of two queued lots: effective class, then stamp, then lot number. -/
def lotBefore (now : Tick) (ageStep : Nat) (a b : Lot) : Bool :=
  let ca := a.effectiveClass now ageStep
  let cb := b.effectiveClass now ageStep
  decide (ca < cb) || (ca == cb && (decide (a.stamp.toNat < b.stamp.toNat) ||
    (a.stamp == b.stamp && decide (a.number.toNat < b.number.toNat))))

/-- The lots in the dispatch queue. -/
def State.queuedLots (s : State) : List Lot := s.dispatchQueue.filterMap s.lot?

/-- R118: the evaluation order of the queue as it stands. -/
def State.evalOrder (s : State) : List Lot := sortOrd (lotBefore s.tick s.policy.ageStep) s.queuedLots

/-- R119: the present increment has lowered a lot's effective class: its wait is a whole multiple of AGE_STEP, from 1 to its
priority class. -/
def Lot.promoted (l : Lot) (now : Tick) (ageStep : Nat) : Bool :=
  let wait := elapsed now l.enqueueTick
  decide (1 ≤ ageStep) && wait % ageStep == 0 && decide (1 ≤ wait / ageStep) && decide (wait / ageStep ≤ l.priority)

/-! ### Dispatchable cells and changeover classes (R122 to R124) -/

/-- R122: a cell is dispatchable. That the kinds of its places are not tested is DEDUCED (log 23). -/
def State.dispatchable (s : State) (c : CellNo) : Bool :=
  match (s.cell c).dock with
  | none => false
  | some d =>
    (s.cell c).state == .idle && d.recovery == 0 && (s.station d.handler).state == .online &&
      (s.station d.tester).state == .online && (s.tester d.tester).opState == .idle

/-- R123: the program component: the class of the readiness plan, or ineligible. -/
def planClass : Option Plan → Option Nat
  | none => none
  | some (.select _) => some 0
  | some (.verify _) => some 2
  | some (.load _) => some 2
  | some (.eraseLoad _) => some 2

/-- R124: the kit component. -/
def kitClass (family : Nat) (st : RouteStep) : Nat := if family = st.kit then 0 else 3

/-- R124: the temperature component. -/
def tempClass (x : Cell) (st : RouteStep) : Nat :=
  match x.commanded, x.lastTemp with
  | some z, some (last, _) => if st.inWindow z && st.inWindow last then 0 else 1
  | _, _ => 1

/-- R124: the changeover class of a step on a cell; none is ineligible. The plan is that of the tester place's record also where
the place has come back as a HANDLER: DEDUCED (log 23). -/
def State.changeover (s : State) (c : CellNo) (st : RouteStep) : Option Nat :=
  match (s.cell c).dock with
  | none => none
  | some d =>
    (planClass ((s.tester d.tester).plan st.program s.tick)).map fun k =>
      max k (max (kitClass d.kit st) (tempClass (s.cell c) st))

/-- R124: the setpoint distance. -/
def setpointDistance (x : Cell) (st : RouteStep) : Nat :=
  match x.commanded with
  | some z => (st.setpoint - z).natAbs
  | none => Config.absentDistance

/-! ### The arbitration walk (R125, R126) -/

/-- A cell offered to a candidate, with its class and setpoint distance. -/
structure Offer where
  cell : CellNo
  cls : Nat
  distance : Nat
  deriving DecidableEq, Repr

/-- The offer of a cell to a step, if it is eligible. -/
def State.offerOf (s : State) (st : RouteStep) (c : CellNo) : Option Offer :=
  (s.changeover c st).map fun k => { cell := c, cls := k, distance := setpointDistance (s.cell c) st }

/-- R125: the better of two offers: lower class, then smaller distance, else the first, which has the lower number. -/
def betterOffer (a b : Offer) : Offer :=
  if b.cls < a.cls ∨ (b.cls = a.cls ∧ b.distance < a.distance) then b else a

/-- R125: the best of the offers, which stand in ascending cell number. -/
def bestOffer : List Offer → Option Offer
  | [] => none
  | o :: os => some (os.foldl betterOffer o)

/-- R125: the best cell of a candidate among the cells no earlier candidate has taken. -/
def State.bestCell (s : State) (st : RouteStep) (free : List CellNo) : Option Offer :=
  bestOffer (free.filterMap (s.offerOf st))

/-! ### Assignment (R127) -/

/-- R127: a lot takes a cell. -/
def State.assign (s : State) (l : Lot) (o : Offer) (cls : Nat) : State :=
  let s := s.modLot l.number fun l => { l with state := .assigned, cell := some o.cell }
  let s := s.leaveQueue l.number
  let s := s.modCell o.cell fun x => { x with work := some { lot := l.number, step := l.currentStep } }
  let s := s.post .assigned l.number
    (u8 o.cell.val ++ u8 l.currentStep ++ u8 o.cls ++ u8 cls ++ u16 o.distance)
  if o.cls = 3 then s.enterSetup o.cell else s.enterPreparing o.cell

/-- R121, R125, R126: one candidate of the walk; `head` says whether it is the lot at position 1, `free` the dispatchable
cells not yet taken. -/
def State.walkOne (s : State) (now : Tick) (head : Bool) (l : Lot) (free : List CellNo) : State × List CellNo :=
  match l.stepAt l.currentStep with
  | none => (s, free)
  | some st =>
    match s.bestCell st free with
    | none => (s, free)
    | some o =>
      if o.cls = 3 ∧ head = false then (s, free)
      else (s.assign l o (l.effectiveClass now s.policy.ageStep), free.filter fun c => c != o.cell)

/-- R121: the walk over the candidates. -/
def State.walk (s : State) (now : Tick) (head : Bool) : List Lot → List CellNo → State
  | [], _ => s
  | l :: ls, free => let r := s.walkOne now head l free; r.1.walk now false ls r.2

/-- R121: an evaluation. -/
def State.evaluate (s : State) : State :=
  let s := { s with evalPending := false }
  s.walk s.tick true (s.evalOrder.take s.policy.lookahead) (allCells.filter s.dispatchable)

/-! ### Ticks (R12, R82, R119) -/

/-- R82: a docked cell's recovery timer at an increment; it does not fall while its handler's alarm field is set. Only this
fall, from 1, brings the timer of an IDLE cell to 0 (DESIGN CHOICE, log 4). -/
def Cell.tickRecovery (x : Cell) (alarm : Bool) : Cell :=
  match x.dock with
  | none => x
  | some d =>
    if d.recovery = 0 ∨ alarm = true then x
    else { x with
      dock := some { d with recovery := d.recovery - 1 }
      recoveryDue := x.recoveryDue || (d.recovery == 1 && x.state == .idle) }

/-- The alarm field of the handler of a cell. -/
def State.handlerAlarmed (s : State) (x : Cell) : Bool :=
  match x.dock with | none => false | some d => (s.station d.handler).alarm

/-- R12, R82, R119: an increment of the tick counter, before the deadlines that expire at it. -/
def State.tickOnce (s : State) : State :=
  let s := { s with tick := s.tick + 1, cells := Vector.ofFn fun c => (s.cells[c]).tickRecovery (s.handlerAlarmed s.cells[c]) }
  { s with ageDue := s.ageDue || (s.committed && s.queuedLots.any fun l => l.promoted s.tick s.policy.ageStep) }

end Sys2Proof.Machine
end

