-- ==== Sys2Proof/Machine/Flags.lean ====
section
/-! DEFINITION. Attention: which classes are pending and the level of ATTN (R10, R11). -/

namespace Sys2Proof.Machine

/-- Section 1.4: a class is pending while the queue holds at least one record of it. -/
def State.classPending (s : State) (k : EventClass) : Bool := s.events.any (fun e => e.kind.cls == k)

/-- The class enable of a class. -/
def Attention.enabled (a : Attention) : EventClass → Bool
  | .part => a.part
  | .station => a.station
  | .cell => a.cell
  | .tester => a.tester
  | .lot => a.lot
  | .release => a.release

/-- The six classes in the order of R11. -/
def allClasses : List EventClass := [.part, .station, .cell, .tester, .lot, .release]

/-- R10: ATTN is driven low; during a reset it is driven high. -/
def State.attnLow (s : State) : Bool :=
  s.inReset.isNone && s.attention.master && allClasses.any (fun k => s.attention.enabled k && s.classPending k)

end Sys2Proof.Machine
end

