-- ==== Sys2Proof/Machine/Stations.lean ====
section
/-! DEFINITION. The Station Table and the Trunk Controllers (Chapter 2): ends of commands, reports, loss, return, restart,
answers, misses, polls and rounds. -/

namespace Sys2Proof.Machine

/-! ### Reports (R33) -/

/-- R33: a report that does not come with the end of a command, from an ONLINE place. -/
def State.routeReport (s : State) (p : Place) (r : Report) : State :=
  match r with
  | .identity kind model firmware =>
    if StationKind.ofCode kind = (s.station p).kind then
      s.modStation p fun st => { st with model := some model, firmware := some firmware }
    else s.stray p r
  | .passResult _ => s.stray p r
  | .kit _ | .temp _ | .tally _ _ _ | .endOf _ _ _ | .slotCheck _ _ _ _ =>
    if (s.station p).kind = some .handler then s.handlerReport p r else s.stray p r

/-- R33: the report of an answer, if it carries one. -/
def State.routeOpt (s : State) (p : Place) : Option Report → State
  | some r => s.routeReport p r
  | none => s

/-- R79: a report that came with the end of a handler's command is routed after the end has been taken. -/
def State.handlerReportOpt (s : State) (p : Place) : Option Report → State
  | some r => s.handlerReport p r
  | none => s

/-! ### STATION PASS (R39, R40) -/

/-- The tag of the STATION PASS that waits. -/
def passTag : Instr → Byte
  | .stationPass tag _ _ _ _ => tag
  | _ => 0

/-- R39: the result of a pass: the body of a PASS RESULT report, or empty. -/
def passBody : Option Report → List Byte
  | some (.passResult body) => body
  | _ => []

/-- R39: the status and fields of the deferred reply. -/
def passReply (p : Place) (e : End) (f : AnswerFlags) (r : Option Report) : Status × List Byte :=
  match e with
  | .done => (.ok, u8 p.val ++ u8 f.toByte ++ u8 (passBody r).length ++ passBody r)
  | .failed | .timeout | .restart => (.noResponse, [])
  | .lost | .retired | .notOnline | .occupied => (.stationLost, [])

/-- R39: the deferred reply, where the command that ended is the answering member's. -/
def State.passAnswered (s : State) (p : Place) (e : End) (f : AnswerFlags) (r : Option Report) : State :=
  match s.serving with
  | none => s
  | some sv =>
    if sv.deferred = some p then
      s.answer 0x16 (passTag sv.request) (passReply p e f r).1 (passReply p e f r).2
    else s

/-- R39, R40: the end of a pass-through command; a PASS RESULT with a done end goes with it, another report is routed
(log 13). -/
def State.passEnd (s : State) (p : Place) (e : End) (f : AnswerFlags) (r : Option Report) : State :=
  let s := s.passAnswered p e f r
  match e, r with
  | .done, some (.passResult _) => s
  | _, _ => s.routeOpt p r

/-! ### Ends of commands -/

/-- R31: the end of a command is handed to its issuer, with the report carried in the same answer. -/
def State.handEnd (s : State) (p : Place) (cmd : Command) (e : End) (f : AnswerFlags) (r : Option Report) : State :=
  match cmd with
  | .setSetpoint ref z => (s.setpointEnd p ref z e).handlerReportOpt p r
  | .startInsertion number _ _ quantity => (s.startEnd p number quantity e).handlerReportOpt p r
  | .stopSegment _ => s.handlerReportOpt p r
  | .slotCommand op slot _ _ => s.testerEnd p op slot e r
  | .pass _ => s.passEnd p e f r

/-- The flags of no answer. -/
def noFlags : AnswerFlags := { fresh := false, alarm := false, done := false, failed := false }

/-- Ends a list of commands with one cause, in order, and hands each to its issuer. -/
def State.handAll (s : State) (p : Place) (cmds : List Command) (e : End) : State :=
  cmds.foldl (fun s cmd => s.handEnd p cmd e noFlags none) s

/-- The command in flight and then the queued commands, in queue order (R24, R27). -/
def Station.commands (st : Station) : List Command := (st.inFlight.map (fun f => f.command)).toList ++ st.queue

/-! ### Loss, return and restart (R24 to R26) -/

/-- The owner is told that a station is LOST: for a tester the Slot Manager first (R115), then the cell (R94). That the cell acts
by the place, also where it holds a station of the other kind than the cell needs, is DEDUCED (log 23). -/
def State.tellLost (s : State) (p : Place) : State :=
  if (s.station p).kind = some .tester then (s.breakOff p .lost).cellLost p else s.cellLost p

/-- R24: a place goes LOST. -/
def State.goLost (s : State) (p : Place) : State :=
  let cmds := (s.station p).commands
  let s := s.modStation p fun st =>
    { st with state := .lost, misses := 3, freshAck := false, queue := [], inFlight := none, lateEnd := none }
  let s := s.post .stationLost (subj p.val) (u8 cmds.length)
  (s.handAll p cmds .lost).tellLost p

/-- The kind byte of a station in an event. -/
def Station.kindCode (st : Station) : Nat := st.kind.elim 0 StationKind.code

/-- R23, R25: STATION_ONLINE, marked as a join (0) or a return (1), and the owner is told. -/
def State.comeOnline (s : State) (p : Place) (mark : Nat) : State :=
  (s.post .stationOnline (subj p.val) (u8 (s.station p).kindCode ++ u8 mark)).cellOnline p

/-- R25: a LOST place returns to ONLINE. -/
def State.returnOnline (s : State) (p : Place) : State :=
  (s.modStation p fun st => { st with state := .online, misses := 0 }).comeOnline p 1

/-- The owner is told of a restart: for a tester R114 and then the cell, for a handler R95. That the kind of the station picks
the effect, so that a place which holds the other kind than its cell needs has none on the cell, is DEDUCED (log 23). -/
def State.tellRestart (s : State) (p : Place) : State :=
  if (s.station p).kind = some .tester then (s.testerRestarted p).testerRestartCell p else s.handlerRestarted p

/-- R26: a station restart: the event, the flag, the end of the command in flight and of a late-end wait, and the owner. -/
def State.stationRestart (s : State) (p : Place) : State :=
  let cmds := ((s.station p).inFlight.map (fun f => f.command)).toList
  let s := s.post .stationRestart (subj p.val) (u8 (s.station p).kindCode ++ u8 cmds.length)
  let s := s.modStation p fun st => { st with freshAck := true, inFlight := none, lateEnd := none }
  (s.handAll p cmds .restart).tellRestart p

/-- R26: the fresh-start flag of an answer from an ONLINE place. -/
def State.freshStep (s : State) (p : Place) (fresh : Bool) : State :=
  if fresh then
    if (s.station p).freshAck then s else s.stationRestart p
  else s.modStation p fun st => { st with freshAck := false }

/-! ### Answers (R21) -/

/-- R31, R32, R33: the end flags and the report of an answer from an ONLINE place. -/
def State.endStep (s : State) (p : Place) (f : AnswerFlags) (r : Option Report) : State :=
  match (s.station p).inFlight with
  | some fl =>
    if f.failed then (s.modStation p fun st => { st with inFlight := none }).handEnd p fl.command .failed f r
    else if f.done then (s.modStation p fun st => { st with inFlight := none }).handEnd p fl.command .done f r
    else s.routeOpt p r
  | none =>
    if (s.station p).lateEnd.isSome && (f.done || f.failed) then
      (s.modStation p fun st => { st with lateEnd := none }).strayOpt p r
    else s.routeOpt p r

/-- R21, R82: the alarm active flag reaches the Cell Controller for a handler and is written to the record. The flag of the
answer whose IDENTITY has just freed a docked JOINING place goes nowhere, for the place is then ABSENT: DEDUCED (log 19).
That of a TESTER at a cell's handler place goes nowhere either: DEDUCED (log 23). -/
def State.alarmStep (s : State) (p : Place) (alarm : Bool) : State :=
  if (s.station p).state = .absent then s
  else
    let s := if (s.station p).kind = some .handler ∧ alarm = true then s.handlerAlarm p else s
    s.modStation p fun st => { st with alarm := alarm }

/-- R23: an answer from a JOINING place: the fresh-start flag, and an IDENTITY decides the enrolment. -/
def State.joinStep (s : State) (p : Place) (fresh : Bool) (r : Option Report) : State :=
  let s := s.modStation p fun st => { st with freshAck := fresh }
  match r with
  | some (.identity kind model firmware) =>
    if StationKind.ofCode kind = (s.station p).kind then
      (s.modStation p fun st =>
        { st with state := .online, misses := 0, model := some model, firmware := some firmware }).comeOnline p 0
    else
      let declared := (s.station p).kindCode
      (s.setStation p Station.reset).post .enrollFailed (subj p.val) (u8 declared ++ u8 kind)
  | _ => s

/-- R21: an answer of a place, handled as one event on its record. -/
def State.takeAnswer (s : State) (p : Place) (f : AnswerFlags) (r : Option Report) : State :=
  match (s.station p).state with
  | .absent => s
  | .joining => (s.joinStep p f.fresh r).alarmStep p f.alarm
  | .online =>
    (((s.modStation p fun st => { st with misses := 0 }).freshStep p f.fresh).endStep p f r).alarmStep p f.alarm
  | .lost => (((s.returnOnline p).freshStep p f.fresh).endStep p f r).alarmStep p f.alarm

/-- R23 to R25: a miss of a place. -/
def State.takeMiss (s : State) (p : Place) : State :=
  if (s.station p).state = .online then
    if 2 ≤ (s.station p).misses then s.goLost p else s.modStation p fun st => { st with misses := st.misses + 1 }
  else s

/-! ### Rounds and polls (R19, R20, R30) -/

/-- The enrolled addresses of a trunk. -/
def State.enrolledAt (s : State) (t : TrunkNo) : List AddrIx := allAddrs.filter fun a => (s.station (placeOf t a)).enrolled

/-- R19: the lowest enrolled address above the poll position, or the lowest of all where a round begins. -/
def State.nextAddr (s : State) (t : TrunkNo) : Option AddrIx :=
  match (s.trunk t).position with
  | none => (s.enrolledAt t).head?
  | some q => (s.enrolledAt t).find? fun a => decide (q < a)

/-- R19: what a trunk comes to between polls: without an enrolled place its position is cleared and no gap runs; a round
with no enrolled address above the position ends, and the gap begins with ROUND_GAP_MS as it stands. -/
def State.settleTrunk (s : State) (t : TrunkNo) : State :=
  if s.enrolledAt t = [] then s.setTrunk t { s.trunk t with position := none, gap := none }
  else if (s.trunk t).outstanding.isNone ∧ (s.trunk t).position.isSome ∧ s.nextAddr t = none then
    s.setTrunk t { s.trunk t with position := none, gap := some s.policy.roundGap }
  else s

/-- R30: the command a poll carries: the head of an ONLINE place's queue with nothing in flight and no late end awaited. -/
def Station.toSend (st : Station) : Option Command :=
  if st.state = .online ∧ st.inFlight = none ∧ st.lateEnd = none then st.queue.head? else none

/-- R30: the command leaves the queue and is in flight. -/
def Station.send (st : Station) (cmd : Command) (now : Tick) (p : Policy) : Station :=
  { st with
    queue := st.queue.tail
    inFlight := some { command := cmd, sentAt := now, deadline := { start := now, span := cmd.duration p } } }

/-- R20, R30: the poll to an address is sent and its answer window opens. -/
def State.sendPoll (s : State) (t : TrunkNo) (a : AddrIx) : State :=
  let p := placeOf t a
  let st := s.station p
  let cmd := st.toSend
  let frame := pollFrame (a.val + 1) st.freshAck ((cmd.map Command.bytes).getD [])
  let s := match cmd with
    | some cmd => s.setStation p (st.send cmd s.tick s.policy)
    | none => s
  s.setTrunk t
    { position := some a
      outstanding := some { place := p, windowMs := s.policy.answerWindow, frame := frame, abandoned := false }
      gap := none }

/-- R19: a place leaves the enrolled states: an answer in the window of its poll changes nothing. -/
def State.abandonPoll (s : State) (p : Place) : State :=
  let t := trunkOf p
  s.setTrunk t { s.trunk t with
    outstanding := (s.trunk t).outstanding.map fun o => if o.place = p then { o with abandoned := true } else o }

/-! ### Retirement (R27, R115) -/

/-- R115: the retirement notice of a tester. -/
def State.tellRetired (s : State) (p : Place) : State :=
  if (s.station p).kind = some .tester then s.modTester p Tester.staled else s

/-- R27: a place is retired: its commands fail with cause RETIRED, its owner is told, and its record is cleared. -/
def State.retire (s : State) (p : Place) : State :=
  let cmds := (s.station p).commands
  let s := s.modStation p fun st => { st with queue := [], inFlight := none, lateEnd := none }
  let s := (s.handAll p cmds .retired).tellRetired p
  ((s.setStation p Station.reset).abandonPoll p).settleTrunk (trunkOf p)

end Sys2Proof.Machine
end

