-- ==== Sys2Proof/Machine/Serve.lean ====
section
/-! DEFINITION. How a request row is served (R4 to R7), and the answer of an event row outside its occasion. -/

namespace Sys2Proof.Machine

/-- What the owning block answers a request with: the reply status and the fields after it (R7). -/
structure Answer where
  status : Status
  fields : List Byte
  deriving DecidableEq, Repr

/-- The owning block's service of a request: the state after it and its answer. -/
abbrev Service := State → State × Answer

/-- A refusal that carries its status alone and changes nothing (R7). -/
def refuse (s : State) (st : Status) : State × Answer := (s, { status := st, fields := [] })

/-- A refusal that carries further fields (R7). -/
def refuseWith (s : State) (st : Status) (fields : List Byte) : State × Answer := (s, { status := st, fields := fields })

/-- The answer OK with its fields. -/
def accept (s : State) (fields : List Byte) : State × Answer := (s, { status := .ok, fields := fields })

/-- The answer STARTED with its fields. -/
def begun (s : State) (fields : List Byte) : State × Answer := (s, { status := .started, fields := fields })

/-- The kind value of a request's row (R3). -/
def kindOf (i : Instr) : Byte := i.requestKind.getD 0

/-- R4: a request that R4 has handed to its block, or that arrives while none is served and the list has room (log 10). -/
def State.takes (s : State) (i : Instr) : Bool :=
  match s.serving with
  | none => !s.replyListFull
  | some sv => sv.request == i && sv.deferred.isNone

/-- R5, R6: a request that arrives while another is served is answered BUSY, and one that finds no room is dropped. -/
def State.turnedAway (s : State) (kind tag : Byte) : State :=
  if s.replyListFull then s else s.placeReply kind tag .busy []

/-- R4 to R7: a request row: the owning block serves it and its reply is placed as the serving flag clears; it is answered
BUSY or dropped where R5 and R6 say so, and lost during a reset (R16). -/
def serve (i : Instr) (tag : Byte) (service : Service) (s : State) : Host.Outcome State Fault Refusal :=
  if s.inReset.isSome then .next s
  else if s.takes i then
    let r := service s
    .next (r.1.answer (kindOf i) tag r.2.status r.2.fields)
  else .next (s.turnedAway (kindOf i) tag)

/-- An event row: it takes place where the state offers its occasion and the part is not in reset, and otherwise it does
not happen and changes nothing (log 9). -/
def happen (occasion : Bool) (effect : State → State) (s : State) : Host.Outcome State Fault Refusal :=
  if s.inReset.isNone && occasion then .next (effect s) else .next s

end Sys2Proof.Machine
end

