-- ==== Sys2Proof/Machine/FloorLink.lean ====
section
/-! DEFINITION. The rows of Chapter 1: the receiver, the reply list, the reset, the tick, events, attention, the floor policy
and IDENTIFY. -/

namespace Sys2Proof.Machine

/-! ### The receiver (R1, R2) -/

/-- What a byte on FL_RXD brings about (R1, R2, R4 to R6): the rows of the receiver. -/
inductive ByteEvent where
  | start
  | gathered
  | lengthDiscard
  | checkFailed
  | dropped
  | busy
  | received
  deriving DecidableEq, Repr

/-- Section 1.9: the length field of a frame whose first three bytes are gathered. -/
def frameLength (frame : List Byte) : Nat := be16 (frame.getD 1 0) (frame.getD 2 0)

/-- R2: the received check of a whole frame is the one computed over its length, kind, tag and payload. -/
def frameCheckRight (frame : List Byte) : Bool :=
  let n := frameLength frame
  frame.drop (3 + n) == checkBytes ((frame.drop 1).take (2 + n))

/-- The kind, tag and payload of a whole frame (Section 1.9). -/
def frameKind (frame : List Byte) : Byte := frame.getD 3 0
def frameTag (frame : List Byte) : Byte := frame.getD 4 0
def framePayload (frame : List Byte) : List Byte := (frame.drop 5).take (frameLength frame - 2)

/-- R1: what the next byte brings about in the receiver's present state. -/
def State.byteEvent (s : State) (b : Byte) : ByteEvent :=
  let frame := s.receiver.buffer ++ [b]
  match s.receiver.phase with
  | .hunt => .start
  | .header =>
    if frame.length < 3 then .gathered
    else if frameLength frame < Config.minLength ∨ Config.maxLength < frameLength frame then .lengthDiscard
    else .gathered
  | .body =>
    if frame.length < frameLength frame + 5 then .gathered
    else if !frameCheckRight frame then .checkFailed
    else if s.replyListFull then .dropped
    else if s.serving.isSome then .busy
    else .received

/-- R1: the receiver in HUNT with an empty buffer. -/
def State.toHunt (s : State) : State := { s with receiver := { phase := .hunt, buffer := [] } }

/-- The frame a byte completes. -/
def State.frameWith (s : State) (b : Byte) : List Byte := s.receiver.buffer ++ [b]

/-- R1: in HUNT the sync byte starts a frame and any other byte is discarded. -/
def State.takeHuntByte (s : State) (b : Byte) : State :=
  if b = Config.syncByte then { s with receiver := { phase := .header, buffer := [b] } } else s

/-- R1: a byte is gathered; the second length byte takes the receiver to BODY. -/
def State.gather (s : State) (b : Byte) : State :=
  let frame := s.frameWith b
  { s with receiver := { phase := if frame.length < 3 then .header else .body, buffer := frame } }

/-- R4: a well-framed frame is examined and handed to its block or answered at once. -/
def State.takeFrame (s : State) (frame : List Byte) : State :=
  let s := s.toHunt
  match examine (frameKind frame) (frameTag frame) (framePayload frame) with
  | .unknown => s.placeReply (frameKind frame) (frameTag frame) .unknownRequest []
  | .malformed => s.placeReply (frameKind frame) (frameTag frame) .malformed []
  | .request i => { s with serving := some { request := i, deferred := none } }

/-- FRAME_START (R1). -/
def execFrameStart (b : Byte) (s : State) : Host.Outcome State Fault Refusal :=
  happen (s.byteEvent b == .start) (fun s => s.takeHuntByte b) s

/-- BYTE_GATHERED (R1). -/
def execByteGathered (b : Byte) (s : State) : Host.Outcome State Fault Refusal :=
  happen (s.byteEvent b == .gathered) (fun s => s.gather b) s

/-- LENGTH_DISCARD (R1). -/
def execLengthDiscard (b : Byte) (s : State) : Host.Outcome State Fault Refusal :=
  happen (s.byteEvent b == .lengthDiscard) (fun s => s.toHunt) s

/-- INTER_BYTE_GAP_EXPIRY (R1): a frame under way is abandoned; in HUNT the gap is not measured. -/
def execInterByteGapExpiry (s : State) : Host.Outcome State Fault Refusal :=
  happen (s.receiver.phase != .hunt) (fun s => s.toHunt) s

/-- CHECK_FAILED (R2). -/
def execCheckFailed (b : Byte) (s : State) : Host.Outcome State Fault Refusal :=
  happen (s.byteEvent b == .checkFailed) (fun s => s.toHunt) s

/-- FRAME_RECEIVED (R4). -/
def execFrameReceived (b : Byte) (s : State) : Host.Outcome State Fault Refusal :=
  happen (s.byteEvent b == .received) (fun s => s.takeFrame (s.frameWith b)) s

/-- BUSY (R5). -/
def execBusy (b : Byte) (s : State) : Host.Outcome State Fault Refusal :=
  happen (s.byteEvent b == .busy)
    (fun s => s.toHunt.placeReply (frameKind (s.frameWith b)) (frameTag (s.frameWith b)) .busy []) s

/-- REPLY_LIST_FULL_DROP (R6). -/
def execReplyListFullDrop (b : Byte) (s : State) : Host.Outcome State Fault Refusal :=
  happen (s.byteEvent b == .dropped) (fun s => s.toHunt) s

/-- REPLY_SENT (R6): the oldest reply leaves the list. -/
def execReplySent (s : State) : Host.Outcome State Fault Refusal :=
  happen (!s.replies.isEmpty) (fun s => { s with replies := s.replies.tail }) s

/-! ### Reset (R16) -/

/-- R16: the cause of a reset that begins while another is under way: a supply that rises records POWER_ON, and a RESET held
low through power-up does not change it. -/
def resetBegun (under : Option ResetCause) (cause : ResetCause) : ResetCause :=
  match under, cause with
  | some .powerOn, .resetPin => .powerOn
  | _, c => c

/-- FULL_RESET (R16, R6, R5): the part receives and sends nothing; what was received, served or to be sent is lost. -/
def execFullReset (cause : ResetCause) (s : State) : Host.Outcome State Fault Refusal :=
  .next { s.toHunt with
    inReset := some (resetBegun s.inReset cause), serving := none, replies := []
    trunks := Vector.replicate 4 Trunk.reset }

/-- R16: the state at the end of a reset of a cause. -/
def State.afterReset (cause : ResetCause) : State :=
  { State.reset with
    resetCause := cause
    events := [{ kind := .resetDone, tick := 0, subject := 0, detail := u8 (resetCauseCode cause) }] }

/-- RESET_END (R16): the reset ends; the waiting commands are those of the model's queue. -/
def execResetEnd (s : State) : Host.Outcome State Fault Refusal :=
  match s.inReset with
  | none => .next s
  | some cause => .next { State.afterReset cause with pending := s.pending }

/-! ### IDENTIFY, events and attention -/

/-- IDENTIFY (R17). -/
def serveIdentify (s : State) : State × Answer :=
  accept s (u16 Config.partCode ++ u8 Config.siliconRevision ++ u8 (resetCauseCode s.resetCause) ++ u32 s.tick.toNat ++ yesNo s.committed)

def execIdentify (tag : Byte) (s : State) : Host.Outcome State Fault Refusal := serve (.identify tag) tag serveIdentify s

/-- FETCH EVENTS (R9). -/
def serveFetchEvents (s : State) : State × Answer :=
  let fetched := s.events.take Config.fetchMax
  let left := s.events.drop Config.fetchMax
  accept { s with events := left, discards := 0 }
    (u8 s.discards ++ u8 left.length ++ u8 fetched.length ++ fetched.flatMap Event.bytes)

def execFetchEvents (tag : Byte) (s : State) : Host.Outcome State Fault Refusal :=
  serve (.fetchEvents tag) tag serveFetchEvents s

/-- R11: the enables a SET ATTENTION writes. -/
def Attention.ofFields (f : Vector Byte 7) : Attention :=
  { master := isYes f[0], part := isYes f[1], station := isYes f[2], cell := isYes f[3], tester := isYes f[4]
    lot := isYes f[5], release := isYes f[6] }

/-- SET ATTENTION (R11). -/
def serveSetAttention (f : Vector Byte 7) (s : State) : State × Answer :=
  let a := Attention.ofFields f
  accept { s with attention := a }
    (yesNo a.master ++ allClasses.flatMap (fun k => yesNo (a.enabled k)) ++
      allClasses.flatMap (fun k => yesNo (s.classPending k)))

def execSetAttention (tag : Byte) (fields : Vector Byte 7) (s : State) : Host.Outcome State Fault Refusal :=
  serve (.setAttention tag fields) tag (serveSetAttention fields) s

/-! ### The floor policy (R13 to R15) -/

/-- R13: a value below its range is stored as the lower end, and one above as the upper end. -/
def clampNat (lo hi n : Nat) : Nat := if n < lo then lo else if hi < n then hi else n

/-- R13: the policy a SET POLICY writes. -/
def Policy.ofRaw (f : RawPolicy) : Policy :=
  { lookahead := clampNat 1 8 f.lookahead.toNat
    ageStep := clampNat 0 65535 f.ageStep.toNat
    setupTimeout := clampNat 100 36000 f.setupTimeout.toNat
    commandTimeout := clampNat 5 600 f.commandTimeout.toNat
    loadTimeout := clampNat 100 36000 f.loadTimeout.toNat
    stopTimeout := clampNat 10 6000 f.stopTimeout.toNat
    recoveryTime := clampNat 0 6000 f.recoveryTime.toNat
    answerWindow := clampNat 1 50 f.answerWindow.toNat
    roundGap := clampNat 0 100 f.roundGap.toNat
    openPass := isYes f.openPass }

/-- Section 1.6: the ten fields as stored, in table order. -/
def Policy.bytes (p : Policy) : List Byte :=
  u8 p.lookahead ++ u16 p.ageStep ++ u16 p.setupTimeout ++ u16 p.commandTimeout ++ u16 p.loadTimeout ++ u16 p.stopTimeout ++
    u16 p.recoveryTime ++ u8 p.answerWindow ++ u8 p.roundGap ++ yesNo p.openPass

/-- SET POLICY (R13). -/
def serveSetPolicy (f : RawPolicy) (s : State) : State × Answer :=
  if s.committed then refuse s .writeOnce
  else accept { s with policy := Policy.ofRaw f } (Policy.ofRaw f).bytes

def execSetPolicy (tag : Byte) (fields : RawPolicy) (s : State) : Host.Outcome State Fault Refusal :=
  serve (.setPolicy tag fields) tag (serveSetPolicy fields) s

/-- COMMIT POLICY (R15, R120). -/
def serveCommitPolicy (s : State) : State × Answer :=
  if s.committed then refuse s .writeOnce
  else accept ({ s with committed := true, evalPending := true }.post .policyCommitted 0 []) []

def execCommitPolicy (tag : Byte) (s : State) : Host.Outcome State Fault Refusal :=
  serve (.commitPolicy tag) tag serveCommitPolicy s

/-- READ POLICY (R15). -/
def serveReadPolicy (s : State) : State × Answer := accept s (s.policy.bytes ++ yesNo s.committed)

def execReadPolicy (tag : Byte) (s : State) : Host.Outcome State Fault Refusal := serve (.readPolicy tag) tag serveReadPolicy s

end Sys2Proof.Machine
end

