-- ==== Sys2Proof/Machine/Products.lean ====
section
/-! DEFINITION. The rows of Chapter 3: staging, activating, discarding, deleting and reading products, and the baseline
requests. -/

namespace Sys2Proof.Machine

/-! ### Versions (Section 3.2) -/

/-- R13, R43: a signed value outside its range is stored as the nearer end. -/
def clampInt (lo hi z : Int) : Int := if z < lo then lo else if hi < z then hi else z

/-- R42: a step of a version has no structural error. -/
def rawStepFits (x : RawStep) : Bool :=
  x.kit != 0 && decide (1 ≤ x.programId.toNat) && decide (x.programId.toNat ≤ 4095) && x.programRevision != 0

/-- R42: a version has no structural error: 1..4 steps, at least one good bin, and no error in a step. -/
def rawVersionFits (v : RawVersion) : Bool :=
  decide (1 ≤ v.steps.length) && decide (v.steps.length ≤ 4) && (allBins.any fun b => isYes v.good[b]) && v.steps.all rawStepFits

/-- R43: a step as stored. -/
def RouteStep.ofRaw (x : RawStep) : RouteStep :=
  { setpoint := clampInt (-550) 1750 (signed16 x.setpoint.toNat)
    window := clampNat 5 200 x.window.toNat
    soak := clampNat 0 36000 x.soak.toNat
    kit := x.kit.toNat
    program := { id := x.programId.toNat, revision := x.programRevision.toNat, check := x.check } }

/-- R43: a version as stored. -/
def Version.ofRaw (v : RawVersion) : Version :=
  { product := v.product
    good := Vector.ofFn fun b => isYes v.good[b]
    margins := Vector.ofFn fun b => clampNat 0 65536 v.margins[b].toNat
    gain := v.gain.toNat
    shift := clampNat 1 8 v.shift.toNat
    sampleMin := clampNat 1 65535 v.sampleMin.toNat
    yieldFloor := clampNat 0 10000 v.yieldFloor.toNat
    learnMin := clampNat 1 255 v.learnMin.toNat
    lossAllowance := clampNat 0 500 v.lossAllowance.toNat
    enables :=
      { countOver := isYes v.enables[0], tallyGap := isYes v.enables[1], countShort := isYes v.enables[2]
        tempExcursion := isYes v.enables[3], binLimit := isYes v.enables[4], yieldLow := isYes v.enables[5] }
    requireLearned := isYes v.requireLearned
    steps := v.steps.map RouteStep.ofRaw }

/-- Section 3.2: the fields of a step. -/
def RouteStep.bytes (x : RouteStep) : List Byte :=
  i16 x.setpoint ++ u16 x.window ++ u16 x.soak ++ u8 x.kit ++ u16 x.program.id ++ u8 x.program.revision ++
    u32 x.program.check.toNat

/-- Section 3.2: the fields of a version, in the order of STAGE PRODUCT. -/
def Version.bytes (v : Version) : List Byte :=
  u16 v.product.toNat ++ u8 v.steps.length ++ (allBins.flatMap fun b => yesNo v.good[b]) ++
    (allBins.flatMap fun b => u32 v.margins[b]) ++ u8 v.gain ++ u8 v.shift ++ u16 v.sampleMin ++ u16 v.yieldFloor ++
    u8 v.learnMin ++ u16 v.lossAllowance ++
    (yesNo v.enables.countOver ++ yesNo v.enables.tallyGap ++ yesNo v.enables.countShort ++ yesNo v.enables.tempExcursion ++
      yesNo v.enables.binLimit ++ yesNo v.enables.yieldLow) ++
    yesNo v.requireLearned ++ v.steps.flatMap RouteStep.bytes

/-- R41: a product number resolves: 0 is RANGE and a number not in the catalog NO_SUCH. -/
def State.findProduct (s : State) (n : ProductNo) : Except Status Product :=
  if n = 0 then .error .range
  else match s.product? n with
    | none => .error .noSuch
    | some e => .ok e

/-! ### Staging and activation (R42 to R49) -/

/-- R41: a fresh catalog entry. -/
def Product.fresh (n : ProductNo) : Product := { number := n, active := none, staged := none, revision := 0, baselines := [] }

/-- STAGE PRODUCT (R42, R43). -/
def serveStageProduct (v : RawVersion) (s : State) : State × Answer :=
  if v.product = 0 then refuse s .range
  else if rawVersionFits v = false then refuse s .range
  else if s.product? v.product = none ∧ Config.catalogRoom ≤ s.catalog.length then refuse s .tableFull
  else
    let e := (s.product? v.product).getD (Product.fresh v.product)
    accept (s.putProduct { e with staged := some (Version.ofRaw v) }) (Version.ofRaw v).bytes

def execStageProduct (tag : Byte) (version : RawVersion) (s : State) : Host.Outcome State Fault Refusal :=
  serve (.stageProduct tag version) tag (serveStageProduct version) s

/-- R47: the outcome byte of a step index at an activation: 0 kept, 1 reset, 2 new. -/
def stepOutcome (old : Option RouteStep) (new : RouteStep) : Nat :=
  match old with
  | none => 2
  | some o => if o.program = new.program then 0 else 1

/-- R47: the outcomes of the staged steps against the old ones, index by index. -/
def stepOutcomes : List RouteStep → List RouteStep → List Nat
  | _, [] => []
  | olds, new :: news => stepOutcome olds.head? new :: stepOutcomes olds.tail news

/-- R47: the baseline sets after an activation: kept where the outcome is 0 and sixteen zeros otherwise. -/
def settleBaselines : List Nat → List Baseline → List Baseline
  | [], _ => []
  | o :: os, bs => (if o = 0 then bs.head?.getD Baseline.zero else Baseline.zero) :: settleBaselines os bs.tail

/-- R46, R47: the entry after its staged version is activated. -/
def Product.activated (e : Product) (v : Version) : Product :=
  let old := e.active.elim [] (fun a => a.steps)
  { e with
    active := some v, staged := none, revision := e.revision + 1
    baselines := settleBaselines (stepOutcomes old v.steps) e.baselines }

/-- ACTIVATE PRODUCT (R46, R47). -/
def serveActivateProduct (n : ProductNo) (s : State) : State × Answer :=
  match s.findProduct n with
  | .error st => refuse s st
  | .ok e =>
    match e.staged with
    | none => refuse s .wrongState
    | some v =>
      if Config.revisionMax ≤ e.revision then refuse s .range
      else accept (s.putProduct (e.activated v))
        (u16 (e.revision + 1) ++ u8 v.steps.length ++
          (stepOutcomes (e.active.elim [] (fun a => a.steps)) v.steps).flatMap u8)

def execActivateProduct (tag : Byte) (product : ProductNo) (s : State) : Host.Outcome State Fault Refusal :=
  serve (.activateProduct tag product) tag (serveActivateProduct product) s

/-- DISCARD STAGED (R48). -/
def serveDiscardStaged (n : ProductNo) (s : State) : State × Answer :=
  match s.findProduct n with
  | .error st => refuse s st
  | .ok e =>
    if e.staged = none then refuse s .already
    else if e.active = none then accept (s.dropProduct n) (yesNo true)
    else accept (s.putProduct { e with staged := none }) (yesNo false)

def execDiscardStaged (tag : Byte) (product : ProductNo) (s : State) : Host.Outcome State Fault Refusal :=
  serve (.discardStaged tag product) tag (serveDiscardStaged product) s

/-- R49: a lot record that names a product in a state other than SHIPPED or SCRAPPED. -/
def Lot.liveOf (l : Lot) (n : ProductNo) : Bool := l.product == n && l.state != .shipped && l.state != .scrapped

/-- R49, R50: the number of live lots of a product. -/
def State.liveLots (s : State) (n : ProductNo) : Nat := s.lots.countP fun l => l.liveOf n

/-- DELETE PRODUCT (R49). -/
def serveDeleteProduct (n : ProductNo) (s : State) : State × Answer :=
  match s.findProduct n with
  | .error st => refuse s st
  | .ok _ => if s.liveLots n ≠ 0 then refuse s .inUse else accept (s.dropProduct n) []

def execDeleteProduct (tag : Byte) (product : ProductNo) (s : State) : Host.Outcome State Fault Refusal :=
  serve (.deleteProduct tag product) tag (serveDeleteProduct product) s

/-! ### Reading (R50) -/

/-- R50: a catalog entry in the listing. -/
def State.listProduct (s : State) (e : Product) : List Byte :=
  u16 e.number.toNat ++ u16 e.revision ++ yesNo e.active.isSome ++ yesNo e.staged.isSome ++ u8 (s.liveLots e.number)

/-- READ PRODUCT (R50). A selector above 1 with a number that is not in the catalog is RANGE, as R50 lists its checks, and not
NO_SUCH, as R41 resolves a number before them: DEDUCED (log 21). -/
def serveReadProduct (n : ProductNo) (selector : Byte) (s : State) : State × Answer :=
  if n = 0 then accept s (u8 s.catalog.length ++ s.catalog.flatMap s.listProduct)
  else if 1 < selector.toNat then refuse s .range
  else match s.product? n with
    | none => refuse s .noSuch
    | some e =>
      match (if selector = 0 then e.active else e.staged) with
      | none => refuse s .wrongState
      | some v => accept s (u16 e.revision ++ yesNo e.active.isSome ++ yesNo e.staged.isSome ++ v.bytes)

def execReadProduct (tag : Byte) (product : ProductNo) (selector : Byte) (s : State) : Host.Outcome State Fault Refusal :=
  serve (.readProduct tag product selector) tag (serveReadProduct product selector) s

/-! ### Baselines (R54, R55) -/

/-- R54: the checks of SET BASELINE and READ BASELINE: the entry and the set of the step. -/
def State.findBaseline (s : State) (n : ProductNo) (step : Byte) : Except Status (Product × Baseline) :=
  match s.findProduct n with
  | .error st => .error st
  | .ok e =>
    match e.active with
    | none => .error .wrongState
    | some v =>
      if step = 0 ∨ v.steps.length < step.toNat then .error .range
      else .ok (e, e.baselines[step.toNat - 1]?.getD Baseline.zero)

/-- Section 3.5: the sixteen values of a set, in bin order. -/
def Baseline.valueBytes (b : Baseline) : List Byte := allBins.flatMap fun i => u32 b.values[i]

/-- R54: a set as SET BASELINE stores it. -/
def Baseline.ofRaw (count : BitVec 16) (values : Vector (BitVec 32) 16) : Baseline :=
  { values := Vector.ofFn fun i => clampNat 0 65536 values[i].toNat, count := clampNat 0 255 count.toNat }

/-- SET BASELINE (R54); N takes two bytes in the reply, as in the request (log 5). -/
def serveSetBaseline (n : ProductNo) (step : Byte) (count : BitVec 16) (values : Vector (BitVec 32) 16) (s : State) :
    State × Answer :=
  match s.findBaseline n step with
  | .error st => refuse s st
  | .ok (e, _) =>
    let b := Baseline.ofRaw count values
    accept (s.putProduct { e with baselines := e.baselines.set (step.toNat - 1) b }) (u16 b.count ++ b.valueBytes)

def execSetBaseline (tag : Byte) (product : ProductNo) (step : Byte) (count : BitVec 16) (values : Vector (BitVec 32) 16)
    (s : State) : Host.Outcome State Fault Refusal :=
  serve (.setBaseline tag product step count values) tag (serveSetBaseline product step count values) s

/-- READ BASELINE (R55). -/
def serveReadBaseline (n : ProductNo) (step : Byte) (s : State) : State × Answer :=
  match s.findBaseline n step with
  | .error st => refuse s st
  | .ok (e, b) => accept s (u16 e.revision ++ u16 b.count ++ b.valueBytes)

def execReadBaseline (tag : Byte) (product : ProductNo) (step : Byte) (s : State) : Host.Outcome State Fault Refusal :=
  serve (.readBaseline tag product step) tag (serveReadBaseline product step) s

end Sys2Proof.Machine
end

