-- ==== Sys2Proof/Machine/Lots.lean ====
section
/-! DEFINITION. The rows of Chapter 4: creating, reprioritising, reading, listing and purging lots. -/

namespace Sys2Proof.Machine

/-- R56: a lot number resolves: 0 is RANGE and a number not in the table NO_SUCH. -/
def State.findLot (s : State) (n : LotNo) : Except Status Lot :=
  if n = 0 then .error .range
  else match s.lot? n with
    | none => .error .noSuch
    | some l => .ok l

/-- R60, R63: a priority class above 3 is stored as 3. -/
def storedClass (b : Byte) : Nat := clampNat 0 3 b.toNat

/-! ### CREATE LOT (R60, R61, R68) -/

/-- R68: a new insertion record. -/
def Insertion.new (input : Option Nat) : Insertion :=
  { outcome := .notRun, input := input, tested := 0, good := 0, bins := Vector.replicate 16 0, extremes := none
    lastSeq := 255, number := none, segments := 0, retests := 0, findings := [], waivers := [], yieldAtClose := none }

/-- R61, R68: one record for each step; step 1's input is the start quantity. -/
def newRecords (quantity steps : Nat) : List Insertion :=
  match steps with
  | 0 => []
  | k + 1 => Insertion.new (some quantity) :: List.replicate k (Insertion.new none)

/-- R61: the record a CREATE LOT builds. -/
def State.newLot (s : State) (n : LotNo) (e : Product) (v : Version) (quantity : Nat) (priority : Byte) (ticket : BitVec 32) :
    Lot :=
  { number := n, product := e.number, revision := e.revision, snapshot := v, startQuantity := quantity, ticket := ticket
    priority := storedClass priority, state := .waiting, currentStep := 1, stamp := s.nextStamp, enqueueTick := s.tick
    cell := none, records := newRecords quantity v.steps.length, holds := [], attempts := 0, shipQuantity := none
    release := none }

/-- R60: the checks of CREATE LOT, with the product's entry and active version. -/
def State.lotChecks (s : State) (n : LotNo) (p : ProductNo) (quantity : BitVec 32) : Except Status (Product × Version) :=
  if n = 0 then .error .range
  else if (s.lot? n).isSome then .error .exists_
  else match s.findProduct p with
    | .error st => .error st
    | .ok e =>
      match e.active with
      | none => .error .wrongState
      | some v =>
        if quantity.toNat = 0 ∨ Config.startQuantityMax < quantity.toNat then .error .range
        else if Config.lotRoom ≤ s.lots.length then .error .tableFull
        else .ok (e, v)

/-- R61, R62: the record joins the table with a new stamp and enters the dispatch queue. -/
def State.addLot (s : State) (l : Lot) : State :=
  { s with lots := putBy (fun x => x.number.toNat) l s.lots, nextStamp := s.nextStamp + 1 }.enterQueue l.number

/-- CREATE LOT (R60, R61). -/
def serveCreateLot (n : LotNo) (p : ProductNo) (quantity : BitVec 32) (priority : Byte) (ticket : BitVec 32) (s : State) :
    State × Answer :=
  match s.lotChecks n p quantity with
  | .error st => refuse s st
  | .ok (e, v) =>
    let l := s.newLot n e v quantity.toNat priority ticket
    accept (s.addLot l) (u16 l.revision ++ u8 v.steps.length ++ u8 l.priority ++ u32 l.stamp.toNat)

def execCreateLot (tag : Byte) (lot : LotNo) (product : ProductNo) (quantity : BitVec 32) (priority : Byte)
    (ticket : BitVec 32) (s : State) : Host.Outcome State Fault Refusal :=
  serve (.createLot tag lot product quantity priority ticket) tag (serveCreateLot lot product quantity priority ticket) s

/-! ### SET PRIORITY (R63) -/

/-- R63: the states in which a priority class is written. -/
def LotState.mayWait : LotState → Bool
  | .waiting => true
  | .assigned => true
  | .running => true
  | .complete | .released | .shipped | .scrapped => false

/-- SET PRIORITY (R63). -/
def serveSetPriority (n : LotNo) (priority : Byte) (s : State) : State × Answer :=
  match s.findLot n with
  | .error st => refuse s st
  | .ok l =>
    if l.state.mayWait then
      accept (s.modLot n fun l => { l with priority := storedClass priority }).trigger (u8 (storedClass priority))
    else refuse s .wrongState

def execSetPriority (tag : Byte) (lot : LotNo) (priority : Byte) (s : State) : Host.Outcome State Fault Refusal :=
  serve (.setPriority tag lot priority) tag (serveSetPriority lot priority) s

/-! ### READ LOT (R71) -/

/-- R71: the fields of a step in the summary. That the input quantity, T and G take 4 bytes each, though
their range needs 3, is DEDUCED (log 5). -/
def Insertion.summary (r : Insertion) : List Byte :=
  u8 r.outcome.code ++ present u32 r.input ++ u32 r.tested ++ u32 r.good ++ u8 r.retests ++ u8 r.segments ++
    present u16 r.yieldAtClose

/-- R71: the summary of a lot. R71 states no widths: that the start quantity and the ship quantity take 4 bytes, the width that
the spec states for them elsewhere, though their range needs 3, is DEDUCED (log 5). -/
def State.lotSummary (s : State) (l : Lot) : List Byte :=
  u32 l.number.toNat ++ u16 l.product.toNat ++ u16 l.revision ++ yesNo (s.lotCurrent l) ++ u8 l.snapshot.steps.length ++
    u32 l.startQuantity ++ u8 l.priority ++ yesNo (l.ticket == 0) ++ u8 l.state.code ++ u8 l.currentStep ++
    u32 l.stamp.toNat ++ u32 l.enqueueTick.toNat ++ present u8 (l.cell.map fun c => c.val) ++ u8 l.holds.length ++
    u8 (leadingRank l.holds) ++ u8 l.attempts ++ present u32 l.shipQuantity ++
    present u32 (l.release.map fun r => r.tick.toNat) ++ l.records.flatMap Insertion.summary

/-- READ LOT (R71). -/
def serveReadLot (n : LotNo) (selector : Byte) (s : State) : State × Answer :=
  match s.findLot n with
  | .error st => refuse s st
  | .ok l =>
    if selector = 0 then accept s (s.lotSummary l)
    else if selector = 1 then accept s (u16 l.revision ++ l.snapshot.bytes)
    else refuse s .range

def execReadLot (tag : Byte) (lot : LotNo) (selector : Byte) (s : State) : Host.Outcome State Fault Refusal :=
  serve (.readLot tag lot selector) tag (serveReadLot lot selector) s

/-! ### LIST LOTS and PURGE LOT (R72, R73) -/

/-- R72: a lot is selected by a filter. -/
def Lot.selectedBy (l : Lot) (filter : Nat) : Bool :=
  if filter = 0 then true else if filter = 8 then !l.holds.isEmpty else l.state.code == filter

/-- R72: the selected lots, in ascending lot number. -/
def State.selectLots (s : State) (filter : Nat) : List Lot := s.lots.filter fun l => l.selectedBy filter

/-- LIST LOTS (R72). -/
def serveListLots (filter start : Byte) (s : State) : State × Answer :=
  if 8 < filter.toNat then refuse s .range
  else
    let chosen := s.selectLots filter.toNat
    let page := (chosen.drop start.toNat).take Config.listMax
    accept s (u8 chosen.length ++ u8 start.toNat ++ u8 page.length ++ page.flatMap fun l => u32 l.number.toNat)

def execListLots (tag filter start : Byte) (s : State) : Host.Outcome State Fault Refusal :=
  serve (.listLots tag filter start) tag (serveListLots filter start) s

/-- PURGE LOT (R73). -/
def servePurgeLot (n : LotNo) (s : State) : State × Answer :=
  match s.findLot n with
  | .error st => refuse s st
  | .ok l =>
    if l.state = .shipped ∨ l.state = .scrapped then accept { s with lots := s.lots.filter fun l => l.number != n } []
    else refuse s .wrongState

def execPurgeLot (tag : Byte) (lot : LotNo) (s : State) : Host.Outcome State Fault Refusal :=
  serve (.purgeLot tag lot) tag (servePurgeLot lot) s

end Sys2Proof.Machine
end

