-- ==== Sys2Proof/Machine/Cells.lean ====
section
/-! DEFINITION. The rows of Chapter 5: docking, undocking, reading and resetting cells, and the cell timers. -/

namespace Sys2Proof.Machine

/-- R75: a request that names a cell takes a number in 0..15. -/
def cellNamed (b : Byte) : Option CellNo := if h : b.toNat < 16 then some ⟨b.toNat, h⟩ else none

/-! ### DOCK CELL (R76) -/

/-- R76: the checks on the two places of a docking, in order. -/
def State.dockRefusal (s : State) (handler tester : Place) : Option Status :=
  if (s.station handler).state = .absent ∨ (s.station tester).state = .absent then some .stationAbsent
  else if (s.station handler).kind ≠ some .handler ∨ (s.station tester).kind ≠ some .tester then some .kindMismatch
  else if s.isDocked handler = true ∨ s.isDocked tester = true then some .inUse
  else none

/-- R76: the checks of DOCK CELL, with the cell and its two places. -/
def State.dockChecks (s : State) (cell handlerAlias testerAlias : Byte) : Except Status (CellNo × Place × Place) :=
  match cellNamed cell with
  | none => .error .range
  | some c =>
    if (s.cell c).state ≠ .empty then .error .exists_
    else match s.resolveSingle handlerAlias with
      | .error st => .error st
      | .ok h => match s.resolveSingle testerAlias with
        | .error st => .error st
        | .ok t => match s.dockRefusal h t with
          | some st => .error st
          | none => .ok (c, h, t)

/-- R76: a docked cell in a state. -/
def Cell.docked (state : CellState) (h t : Place) (handlerAlias testerAlias : Byte) : Cell :=
  { Cell.reset with
    state := state
    dock := some { handler := h, handlerAlias := handlerAlias, tester := t, testerAlias := testerAlias, kit := 0, recovery := 0 } }

/-- R76: both places are ONLINE. -/
def State.bothOnline (s : State) (h t : Place) : Bool := (s.station h).state == .online && (s.station t).state == .online

/-- R76: a cell is docked, IDLE or FAULTED, and its event is posted. -/
def State.dockCell (s : State) (c : CellNo) (h t : Place) (handlerAlias testerAlias : Byte) : State :=
  if s.bothOnline h t then
    ((s.setCell c (Cell.docked .idle h t handlerAlias testerAlias)).post .cellIdle (subj c.val) (u8 0 ++ u16 0)).trigger
  else (s.setCell c (Cell.docked .faulted h t handlerAlias testerAlias)).postFaulted c 1 0

/-- DOCK CELL (R76). -/
def serveDockCell (cell handlerAlias testerAlias : Byte) (s : State) : State × Answer :=
  match s.dockChecks cell handlerAlias testerAlias with
  | .error st => refuse s st
  | .ok (c, h, t) =>
    let s := s.dockCell c h t handlerAlias testerAlias
    accept s (u8 (s.cell c).state.code)

def execDockCell (tag cell handlerAlias testerAlias : Byte) (s : State) : Host.Outcome State Fault Refusal :=
  serve (.dockCell tag cell handlerAlias testerAlias) tag (serveDockCell cell handlerAlias testerAlias) s

/-! ### UNDOCK, READ and RESET CELL (R77, R78, R96) -/

/-- UNDOCK CELL (R77). -/
def serveUndockCell (cell : Byte) (s : State) : State × Answer :=
  match cellNamed cell with
  | none => refuse s .range
  | some c =>
    if (s.cell c).state = .idle ∨ (s.cell c).state = .faulted then accept (s.setCell c Cell.reset) []
    else refuse s .wrongState

def execUndockCell (tag cell : Byte) (s : State) : Host.Outcome State Fault Refusal :=
  serve (.undockCell tag cell) tag (serveUndockCell cell) s

/-- R78: a docked place with its alias and its station state. The rule lists place, alias, place, alias `each with the station
state of the place`; that each state stands directly after its own place and alias is DEDUCED (log 5). -/
def State.placeBytes (s : State) (p : Place) (al : Byte) : List Byte :=
  u8 p.val ++ [al] ++ u8 (s.station p).state.code

/-- R78: the fields of a cell while docked, 0 in an EMPTY cell. -/
def State.dockBytes (s : State) (d : Option Dock) : List Byte :=
  match d with
  | some d => s.placeBytes d.handler d.handlerAlias ++ s.placeBytes d.tester d.testerAlias ++ u8 d.kit
  | none => List.replicate 7 0

/-- R78: the last temperature and its tick under one presence field. -/
def sampleBytes : Option (Int × Tick) → List Byte
  | some (z, t) => yesNo true ++ i16 z ++ u32 t.toNat
  | none => yesNo false ++ i16 0 ++ u32 0

/-- R78: the lot and step under one presence field. -/
def workBytes : Option Work → List Byte
  | some w => yesNo true ++ u32 w.lot.toNat ++ u8 w.step
  | none => yesNo false ++ u32 0 ++ u8 0

/-- R78: the fields of a cell record; the phase deadline is given as the tick of its expiry (log 5). -/
def State.cellBytes (s : State) (x : Cell) : List Byte :=
  u8 x.state.code ++ s.dockBytes x.dock ++ presentI16 x.commanded ++ sampleBytes x.lastTemp ++
    u16 (x.dock.elim 0 fun d => d.recovery) ++ workBytes x.work ++
    yesNo (x.prep.any fun q => q.setpointDone) ++ yesNo (x.prep.any fun q => q.programDone) ++
    present u32 ((x.prep.bind fun q => q.soakStart).map fun t => t.toNat) ++ present u16 x.insertion ++
    present u32 (x.phaseDeadline.map fun d => d.expiry.toNat)

/-- R78: what a reader is shown of a cell: of an EMPTY one, every field as at reset. -/
def Cell.shown (x : Cell) : Cell := if x.state = .empty then Cell.reset else x

/-- READ CELL (R78). -/
def serveReadCell (cell : Byte) (s : State) : State × Answer :=
  match cellNamed cell with
  | none => refuse s .range
  | some c => accept s (s.cellBytes (s.cell c).shown)

def execReadCell (tag cell : Byte) (s : State) : Host.Outcome State Fault Refusal :=
  serve (.readCell tag cell) tag (serveReadCell cell) s

/-- RESET CELL (R96). -/
def serveResetCell (cell : Byte) (s : State) : State × Answer :=
  match cellNamed cell with
  | none => refuse s .range
  | some c =>
    match (s.cell c).state with
    | .setup | .preparing => accept (s.cancel c .reset) []
    | .running | .stopping => accept (s.closePartial c .resetCell .idle true true []) []
    | .idle => accept s []
    | .faulted | .empty => refuse s .wrongState

def execResetCell (tag cell : Byte) (s : State) : Host.Outcome State Fault Refusal :=
  serve (.resetCell tag cell) tag (serveResetCell cell) s

/-! ### Cell timers (R82, R84, R87, R93) -/

/-- R82: the timer of the cell has reached 0 while the cell was IDLE, and that moment has not been taken (log 4). -/
def State.recoveryReached (s : State) (c : CellNo) : Bool := (s.cell c).recoveryDue

/-- RECOVERY_TIMER_EXPIRY (R82, R120). -/
def execRecoveryTimerExpiry (c : CellNo) (s : State) : Host.Outcome State Fault Refusal :=
  happen (s.recoveryReached c) (fun s => (s.modCell c fun x => { x with recoveryDue := false }).trigger) s

/-- R84, R93: the phase deadline of a cell in a state has come. -/
def State.phaseDue (s : State) (c : CellNo) (state : CellState) : Bool :=
  (s.cell c).state == state && (s.cell c).phaseDeadline.any fun d => d.due s.tick

/-- R84: the SETUP deadline expires. -/
def State.expireSetup (s : State) (c : CellNo) : State :=
  match (s.cell c).dock, (s.cell c).work, s.cellStep c with
  | some d, some w, some st =>
    (s.post .setupExpired (subj c.val) (u32 w.lot.toNat ++ u8 st.kit ++ u8 d.kit)).cancel c .setupExpired
  | _, _, _ => s

/-- SETUP_EXPIRED (R84): one expiry of an increment, taken by its own row (log 11). -/
def execSetupExpired (c : CellNo) (s : State) : Host.Outcome State Fault Refusal :=
  happen (s.phaseDue c .setup) (fun s => s.expireSetup c) s

/-- R87: the soak deadline of a cell that has not offered its start has come. -/
def State.soakDue (s : State) (c : CellNo) : Bool :=
  (s.cell c).beforeStart &&
    (s.cell c).prep.any fun q => q.soakDeadline.any fun d => !d.expired && d.deadline.due s.tick

/-- R87: the soak deadline expires and the soak is complete. -/
def Prep.soakExpired (q : Prep) : Prep := { q with soakDeadline := q.soakDeadline.map fun d => { d with expired := true } }

/-- R87, R88: the soak of a cell is complete, and its start is offered where the preparation is. -/
def State.expireSoak (s : State) (c : CellNo) : State := (s.modCell c fun x => x.modPrep Prep.soakExpired).checkStart c

/-- SOAK_DEADLINE_EXPIRY (R87, R88): one expiry of an increment, taken by its own row (log 11). -/
def execSoakDeadlineExpiry (c : CellNo) (s : State) : Host.Outcome State Fault Refusal :=
  happen (s.soakDue c) (fun s => s.expireSoak c) s

/-- R93: the stop deadline expires. -/
def State.expireStop (s : State) (c : CellNo) : State :=
  match (s.cell c).work with
  | none => s
  | some w =>
    (s.post .stopExpired (subj c.val) (u32 w.lot.toNat ++ u16 ((s.cell c).insertion.getD 0))).closePartial c .stopExpired
      .idle true true []

/-- STOP_EXPIRED (R93): one expiry of an increment, taken by its own row (log 11). -/
def execStopExpired (c : CellNo) (s : State) : Host.Outcome State Fault Refusal :=
  happen (s.phaseDue c .stopping) (fun s => s.expireStop c) s

end Sys2Proof.Machine
end

