-- ==== Sys2Proof/Machine/Testers.lean ====
section
/-! DEFINITION. The rows of Chapter 6: loads, erases, verifies, locks, purges, the protect floor and the error flags of
testers. -/

namespace Sys2Proof.Machine

/-- R102, R105: a slot byte in 0..7. -/
def slotNamed (b : Byte) : Option SlotNo := if h : b.toNat < 8 then some ⟨b.toNat, h⟩ else none

/-- R97: a place that must be ONLINE is refused STATION_LOST when JOINING or LOST. -/
def State.needOnline (s : State) (p : Place) : Option Status :=
  if (s.station p).state = .online then none else some .stationLost

/-! ### LOAD PROGRAM (R102) -/

/-- R102: the checks of one member of a load, in order. -/
def State.loadRefusal (s : State) (slot : SlotNo) (p : Place) : Option Status :=
  let t := s.tester p
  if (s.station p).state = .absent then some .stationAbsent
  else if (s.station p).state ≠ .online then some .stationLost
  else if (s.station p).kind ≠ some .tester then some .kindMismatch
  else if t.quiet = false then some .testerBusy
  else if t.errorSet = true then some .testerErrorSet
  else if t.protected_ slot = true then some .protected_
  else if (t.slot slot).locked = true then some .locked
  else if (t.slot slot).state ≠ .empty then some .wrongState
  else none

/-- R102: the load starts on every member in member order; only the answering member's outcome is reported. -/
def State.startLoads (s : State) (e : AliasEntry) (slot : SlotNo) (id : ProgramId) : State :=
  e.members.foldl (fun s p => s.startLoad p slot id .host (p == e.answering) e.members.length) s

/-- LOAD PROGRAM (R102, R103, R104). -/
def serveLoadProgram (al slot : Byte) (programId : BitVec 16) (programRevision : Byte) (check : BitVec 32) (s : State) :
    State × Answer :=
  match slotNamed slot with
  | none => refuse s .range
  | some k =>
    if programId.toNat = 0 ∨ 4095 < programId.toNat ∨ programRevision = 0 then refuse s .range
    else match s.resolve al with
      | .error st => refuse s st
      | .ok e =>
        match e.members.findSome? (s.loadRefusal k) with
        | some st => refuse s st
        | none =>
          begun (s.startLoads e k { id := programId.toNat, revision := programRevision.toNat, check := check })
            (u8 e.members.length ++ u8 e.answering.val)

def execLoadProgram (tag al slot : Byte) (programId : BitVec 16) (programRevision : Byte) (check : BitVec 32) (s : State) :
    Host.Outcome State Fault Refusal :=
  serve (.loadProgram tag al slot programId programRevision check) tag
    (serveLoadProgram al slot programId programRevision check) s

/-! ### ERASE SLOT and VERIFY SLOT (R105, R106) -/

/-- R105, R106, R110: the slot is the tester's selected slot and a cell holds it. -/
def State.slotHeld (s : State) (p : Place) (k : SlotNo) : Bool := (s.tester p).selected == some k && s.selectedHeld p

/-- R105: the checks of an erase after the tester is resolved. -/
def State.eraseRefusal (s : State) (k : SlotNo) (p : Place) : Option Status :=
  let t := s.tester p
  if (s.station p).state ≠ .online then some .stationLost
  else if t.quiet = false then some .testerBusy
  else if t.errorSet = true then some .testerErrorSet
  else if t.protected_ k = true then some .protected_
  else if (t.slot k).state = .empty then some .already
  else if (t.slot k).locked = true ∧ t.lockOverride = false then some .locked
  else if s.slotHeld p k = true then some .inUse
  else none

/-- ERASE SLOT (R105). -/
def serveEraseSlot (al slot : Byte) (s : State) : State × Answer :=
  match slotNamed slot with
  | none => refuse s .range
  | some k => match s.resolveTester al with
    | .error st => refuse s st
    | .ok p => match s.eraseRefusal k p with
      | some st => refuse s st
      | none => begun (s.startErase p k .host) []

def execEraseSlot (tag al slot : Byte) (s : State) : Host.Outcome State Fault Refusal :=
  serve (.eraseSlot tag al slot) tag (serveEraseSlot al slot) s

/-- R106: the checks of a verify after the tester is resolved. -/
def State.verifyRefusal (s : State) (k : SlotNo) (p : Place) : Option Status :=
  let t := s.tester p
  if (s.station p).state ≠ .online then some .stationLost
  else if t.quiet = false then some .testerBusy
  else if t.protected_ k = true then some .protected_
  else if (t.slot k).state ≠ .stale ∧ (t.slot k).state ≠ .verified then some .wrongState
  else if s.slotHeld p k = true then some .inUse
  else none

/-- VERIFY SLOT (R106). -/
def serveVerifySlot (al slot : Byte) (s : State) : State × Answer :=
  match slotNamed slot with
  | none => refuse s .range
  | some k => match s.resolveTester al with
    | .error st => refuse s st
    | .ok p => match s.verifyRefusal k p with
      | some st => refuse s st
      | none => begun (s.startVerify p k .host) []

def execVerifySlot (tag al slot : Byte) (s : State) : Host.Outcome State Fault Refusal :=
  serve (.verifySlot tag al slot) tag (serveVerifySlot al slot) s

/-! ### Locks (R108, R109) -/

/-- QUALIFY SLOT (R108). -/
def serveQualifySlot (al slot : Byte) (s : State) : State × Answer :=
  match slotNamed slot with
  | none => refuse s .range
  | some k => match s.resolveTester al with
    | .error st => refuse s st
    | .ok p =>
      if ((s.tester p).slot k).state ≠ .verified then refuse s .wrongState
      else if ((s.tester p).slot k).locked = true then refuse s .already
      else accept (s.modTester p fun t => t.setSlot k { t.slot k with locked := true }) []

def execQualifySlot (tag al slot : Byte) (s : State) : Host.Outcome State Fault Refusal :=
  serve (.qualifySlot tag al slot) tag (serveQualifySlot al slot) s

/-- SET LOCK OVERRIDE (R109). -/
def serveSetLockOverride (al value : Byte) (s : State) : State × Answer :=
  match s.resolveTester al with
  | .error st => refuse s st
  | .ok p =>
    if (s.tester p).quiet = false then refuse s .testerBusy
    else accept (s.modTester p fun t => { t with lockOverride := isYes value }) (yesNo (isYes value))

def execSetLockOverride (tag al value : Byte) (s : State) : Host.Outcome State Fault Refusal :=
  serve (.setLockOverride tag al value) tag (serveSetLockOverride al value) s

/-! ### PURGE TESTER (R110) -/

/-- R110: the operation of a purge as it begins. -/
def Operation.purge : Operation :=
  { slot := 0, origin := .host, reported := false, members := 1, expected := ⟨0, 0, 0⟩, erased := 0, handled := none }

/-- R110: a purge begins and takes its first step. -/
def State.startPurge (s : State) (p : Place) : State :=
  (s.modTester p fun t => { t with opState := .purging, operation := some Operation.purge }).purgeStep p

/-- R110: the checks of a purge after the tester is resolved. -/
def State.purgeRefusal (s : State) (p : Place) : Option Status :=
  if (s.station p).state ≠ .online then some .stationLost
  else if (s.tester p).quiet = false then some .testerBusy
  else if (s.tester p).errorSet = true then some .testerErrorSet
  else none

/-- PURGE TESTER (R110). -/
def servePurgeTester (al : Byte) (s : State) : State × Answer :=
  match s.resolveTester al with
  | .error st => refuse s st
  | .ok p => match s.purgeRefusal p with
    | some st => refuse s st
    | none => begun (s.startPurge p) []

def execPurgeTester (tag al : Byte) (s : State) : Host.Outcome State Fault Refusal :=
  serve (.purgeTester tag al) tag (servePurgeTester al) s

/-! ### The protect floor and the error flags (R100, R101) -/

/-- R100: a floor value above 8 is stored as 8. -/
def storedFloor (value : Byte) : Nat := clampNat 0 8 value.toNat

/-- SET PROTECT FLOOR (R100). -/
def serveSetProtectFloor (al value : Byte) (s : State) : State × Answer :=
  match s.resolveTester al with
  | .error st => refuse s st
  | .ok p =>
    if (s.tester p).floorWritten = true then refuse s .writeOnce
    else if (s.tester p).quiet = false then refuse s .testerBusy
    else accept (s.modTester p fun t => { t with protectFloor := storedFloor value, floorWritten := true })
      (u8 (storedFloor value))

def execSetProtectFloor (tag al value : Byte) (s : State) : Host.Outcome State Fault Refusal :=
  serve (.setProtectFloor tag al value) tag (serveSetProtectFloor al value) s

/-- CLEAR TESTER ERRORS (R101). -/
def serveClearTesterErrors (al : Byte) (s : State) : State × Answer :=
  match s.resolveTester al with
  | .error st => refuse s st
  | .ok p =>
    let t := s.tester p
    if t.errorSet = false then refuse s .already
    else accept (s.modTester p fun t => { t with loadError := false, eraseError := false }).trigger
      (yesNo t.loadError ++ yesNo t.eraseError)

def execClearTesterErrors (tag al : Byte) (s : State) : Host.Outcome State Fault Refusal :=
  serve (.clearTesterErrors tag al) tag (serveClearTesterErrors al) s

/-! ### READ TESTER (R116) -/

/-- R116: the operation's slot, origin and, for a purge, the count erased; 0 where absent (log 5). -/
def Tester.operationBytes (t : Tester) : List Byte :=
  match t.operation with
  | some o => u8 o.slot.val ++ u8 o.origin.code ++ u8 (if t.opState = .purging then o.erased else 0)
  | none => [0, 0, 0]

/-- R116: the readiness request, with its cell and plan. -/
def Tester.readinessBytes (t : Tester) : List Byte :=
  match t.readiness with
  | some r => yesNo true ++ u8 r.cell.val ++ [Config.planCode r.plan.index]
  | none => [0, 0, 0]

/-- R116: the fields of a slot. -/
def Slot.bytes (x : Slot) : List Byte :=
  u8 x.state.code ++ present u16 (x.program.map fun i => i.1) ++ present u8 (x.program.map fun i => i.2) ++
    present u32 (x.check.map fun c => c.toNat) ++ yesNo x.locked ++ present u32 (x.lastSelected.map fun t => t.toNat)

/-- R116: the fields of a tester record. -/
def Tester.bytes (t : Tester) : List Byte :=
  u8 t.opState.code ++ t.operationBytes ++ yesNo t.loadError ++ yesNo t.eraseError ++ yesNo t.lockOverride ++
    u8 t.protectFloor ++ yesNo t.floorWritten ++ present u8 (t.selected.map fun k => k.val) ++
    present u8 (t.outstanding.map fun o => o.op.kindByte) ++ present u8 (t.next.map fun n => n.op.kindByte) ++
    t.readinessBytes ++ allSlots.flatMap fun k => (t.slot k).bytes

/-- READ TESTER (R116). -/
def serveReadTester (al : Byte) (s : State) : State × Answer :=
  match s.resolveTester al with
  | .error st => refuse s st
  | .ok p => accept s (u8 p.val ++ u8 (s.station p).state.code ++ (s.tester p).bytes)

def execReadTester (tag al : Byte) (s : State) : Host.Outcome State Fault Refusal :=
  serve (.readTester tag al) tag (serveReadTester al) s

end Sys2Proof.Machine
end

