-- ==== Sys2Proof/Machine/Dispatching.lean ====
section
/-! DEFINITION. The rows of Chapter 7: evaluations, age promotions, CANCEL ASSIGNMENT and READ QUEUE. -/

namespace Sys2Proof.Machine

/-- DISPATCH_EVALUATION (R120, R121). -/
def execDispatchEvaluation (s : State) : Host.Outcome State Fault Refusal := happen s.evalPending State.evaluate s

/-- AGE_PROMOTION (R119): the moment an increment has brought is taken as one trigger (log 4). -/
def execAgePromotion (s : State) : Host.Outcome State Fault Refusal :=
  happen s.ageDue (fun s => { s with ageDue := false }.trigger) s

/-- CANCEL ASSIGNMENT (R130). -/
def serveCancelAssignment (n : LotNo) (s : State) : State × Answer :=
  match s.findLot n with
  | .error st => refuse s st
  | .ok l =>
    match l.state, l.cell with
    | .assigned, some c =>
      let s := s.cancel c .request
      accept s (u8 c.val ++ u8 (s.cell c).state.code)
    | _, _ => refuse s .wrongState

def execCancelAssignment (tag : Byte) (lot : LotNo) (s : State) : Host.Outcome State Fault Refusal :=
  serve (.cancelAssignment tag lot) tag (serveCancelAssignment lot) s

/-- R131: the entry of a queued lot. -/
def State.queueEntry (s : State) (l : Lot) : List Byte :=
  u32 l.number.toNat ++ u8 l.currentStep ++ u8 l.priority ++ u8 (l.effectiveClass s.tick s.policy.ageStep) ++
    u32 l.stamp.toNat ++ u32 l.enqueueTick.toNat

/-- READ QUEUE (R131). -/
def serveReadQueue (s : State) : State × Answer :=
  accept s (u32 s.tick.toNat ++ yesNo s.committed ++ u16 s.policy.ageStep ++ u8 s.policy.lookahead ++
    u8 s.evalOrder.length ++ s.evalOrder.flatMap s.queueEntry)

def execReadQueue (tag : Byte) (s : State) : Host.Outcome State Fault Refusal := serve (.readQueue tag) tag serveReadQueue s

end Sys2Proof.Machine
end

