-- ==== Sys2Proof/Machine/Quality.lean ====
section
/-! DEFINITION. The rows of Chapters 8, 10 and 11: READ INSERTION, HOLD LOT, DISPOSE, READ HOLDS, RELEASE LOT, SHIP CONFIRM
and READ RELEASE QUEUE. -/

namespace Sys2Proof.Machine

/-! ### READ INSERTION (R145) -/

/-- R145, R170: for BIN_LIMIT the number of offending bins and the bins in ascending order. -/
def binList (cause : Cause) (bins : List Bin) : List Byte :=
  if cause = .binLimit then u8 bins.length ++ bins.flatMap fun b => u8 b.val else []

/-- R145: a finding of a record. The `cause code, the rank Holds and Dispositions gives it` is one byte, the rank: DEDUCED
(log 5). -/
def Finding.bytes (f : Finding) : List Byte := u8 f.cause.rank ++ u32 f.firstTick.toNat ++ binList f.cause f.bins

/-- R145: the temperature extremes under one presence field. -/
def extremeBytes : Option (Int × Int) → List Byte
  | some (lo, hi) => yesNo true ++ i16 lo ++ i16 hi
  | none => yesNo false ++ i16 0 ++ i16 0

/-- R145, R170: a waiver set. -/
def waiverBytes (ws : List Cause) : List Byte := u8 ws.length ++ ws.flatMap fun c => u8 c.rank

/-- R145: the fields of an insertion record. The input quantity takes 4 bytes, as T and G do: DEDUCED (log 5). -/
def Insertion.bytes (r : Insertion) : List Byte :=
  u8 r.outcome.code ++ present u32 r.input ++ u32 r.tested ++ u32 r.good ++ (allBins.flatMap fun b => u32 r.bins[b]) ++
    extremeBytes r.extremes ++ [r.lastSeq] ++ present u16 r.number ++ u8 r.segments ++ u8 r.retests ++
    present u16 r.yieldAtClose ++ (u8 r.findings.length ++ r.findings.flatMap Finding.bytes) ++ waiverBytes r.waivers

/-- READ INSERTION (R145). -/
def serveReadInsertion (n : LotNo) (step : Byte) (s : State) : State × Answer :=
  match s.findLot n with
  | .error st => refuse s st
  | .ok l =>
    match l.recordAt step.toNat with
    | none => refuse s .range
    | some r => accept s r.bytes

def execReadInsertion (tag : Byte) (lot : LotNo) (step : Byte) (s : State) : Host.Outcome State Fault Refusal :=
  serve (.readInsertion tag lot step) tag (serveReadInsertion lot step) s

/-! ### HOLD LOT (R164) -/

/-- R164, R165: the entries, the leading rank and the state code of a lot as it stands. -/
def State.holdBytes (s : State) (n : LotNo) : List Byte :=
  match s.lot? n with
  | none => [0, 0, 0]
  | some l => u8 l.holds.length ++ u8 (leadingRank l.holds) ++ u8 l.state.code

/-- HOLD LOT (R164). -/
def serveHoldLot (n : LotNo) (s : State) : State × Answer :=
  match s.findLot n with
  | .error st => refuse s st
  | .ok l =>
    if l.state = .shipped ∨ l.state = .scrapped then refuse s .wrongState
    else if (l.holds.any fun h => h.cause == .operator) = true then refuse s .already
    else
      let s := s.enterHold n .operator []
      accept s (s.holdBytes n)

def execHoldLot (tag : Byte) (lot : LotNo) (s : State) : Host.Outcome State Fault Refusal :=
  serve (.holdLot tag lot) tag (serveHoldLot lot) s

/-! ### DISPOSE (R165 to R169) -/

/-- Section 10.5: the verdicts of DISPOSE. -/
inductive Disposition where
  | clear
  | waive
  | retest
  | scrap
  deriving DecidableEq, Repr

/-- R165: the verdict a code names. -/
def Disposition.ofCode : Nat → Option Disposition
  | 1 => some .clear
  | 2 => some .waive
  | 3 => some .retest
  | 4 => some .scrap
  | _ => none

/-- Section 10.5: the verdict codes. -/
def Disposition.code : Disposition → Nat
  | .clear => 1
  | .waive => 2
  | .retest => 3
  | .scrap => 4

/-- R165: the checks of DISPOSE after the lot and the codes are resolved. -/
def Lot.disposeRefusal (l : Lot) (cause : Cause) (d : Disposition) : Option Status :=
  if l.state = .running then some .wrongState
  else if (l.holds.any fun h => h.cause == cause) = false then some .noSuch
  else if (d = .waive ∨ d = .retest) ∧ cause.stepScoped = false then some .wrongState
  else if d = .retest ∧ l.current.any (fun r => decide (Config.retestMax ≤ r.retests)) = true then some .retestLimit
  else none

/-- R167: an insertion record made fresh by a RETEST. -/
def Insertion.retested (r : Insertion) : Insertion :=
  { Insertion.new r.input with retests := r.retests + 1 }

/-- R166: a cause is added to a waiver set, in rank order. -/
def addWaiver (cause : Cause) (ws : List Cause) : List Cause := putBy Cause.rank cause ws

/-- R166: CLEAR. -/
def Lot.clearHold (l : Lot) (cause : Cause) : Lot :=
  { l with
    holds := l.holds.filter fun h => h.cause != cause
    attempts := if cause = .releaseLockout then 0 else l.attempts }

/-- R166: WAIVE. -/
def Lot.waiveHold (l : Lot) (cause : Cause) : Lot :=
  { l with holds := l.holds.filter fun h => h.cause != cause }.modCurrent fun r =>
    { r with waivers := addWaiver cause r.waivers }

/-- R167: RETEST. -/
def Lot.retest (l : Lot) : Lot :=
  { l with holds := l.holds.filter fun h => !(h.cause.stepScoped && h.step == l.currentStep) }.modCurrent Insertion.retested

/-- R168: SCRAP. -/
def Lot.scrap (l : Lot) : Lot := { l with holds := [], attempts := 0, state := .scrapped }

/-- R166 to R168: what a verdict does to the lot. -/
def Lot.dispose (l : Lot) (cause : Cause) (d : Disposition) : Lot :=
  match d with
  | .clear => l.clearHold cause
  | .waive => l.waiveHold cause
  | .retest => l.retest
  | .scrap => l.scrap

/-- R169: the path of a lot whose hold set a CLEAR, WAIVE or RETEST has left empty. -/
def State.holdsEmptied (s : State) (l : Lot) : State :=
  if l.state = .waiting then
    match l.current with
    | none => s
    | some r => if r.outcome = .completeHeld then s.progress l.number else s.enterQueue l.number
  else s

/-- R165, R169: a disposition that passes its checks. -/
def State.disposeLot (s : State) (l : Lot) (cause : Cause) (d : Disposition) : State :=
  let l' := l.dispose cause d
  let s := s.modLot l.number fun l => l.dispose cause d
  let s := s.post .holdDisposed l.number
    (u8 cause.rank ++ u8 d.code ++ u8 (l.holds.length - l'.holds.length) ++ u8 l'.holds.length ++ u8 (leadingRank l'.holds) ++
      u8 l'.state.code)
  if l'.holds = [] ∧ d ≠ .scrap then s.holdsEmptied l' else s

/-- R165: the lot's current step as it stands. -/
def State.stepByte (s : State) (n : LotNo) : List Byte := u8 ((s.lot? n).elim 0 fun l => l.currentStep)

/-- DISPOSE (R165). -/
def serveDispose (n : LotNo) (cause verdict : Byte) (s : State) : State × Answer :=
  match s.findLot n with
  | .error st => refuse s st
  | .ok l =>
    match Cause.ofCode cause.toNat, Disposition.ofCode verdict.toNat with
    | some cause, some d =>
      match l.disposeRefusal cause d with
      | some st => refuse s st
      | none =>
        let s := s.disposeLot l cause d
        accept s (s.holdBytes n ++ s.stepByte n)
    | _, _ => refuse s .range

def execDispose (tag : Byte) (lot : LotNo) (cause verdict : Byte) (s : State) : Host.Outcome State Fault Refusal :=
  serve (.dispose tag lot cause verdict) tag (serveDispose lot cause verdict) s

/-! ### READ HOLDS (R170) -/

/-- R170: a hold entry. -/
def Hold.bytes (h : Hold) : List Byte := u8 h.cause.rank ++ u8 h.step ++ u32 h.tick.toNat ++ binList h.cause h.bins

/-- READ HOLDS (R170). -/
def serveReadHolds (n : LotNo) (s : State) : State × Answer :=
  match s.findLot n with
  | .error st => refuse s st
  | .ok l =>
    accept s (u8 l.state.code ++ u8 l.currentStep ++ u8 l.attempts ++ (u8 l.holds.length ++ l.holds.flatMap Hold.bytes) ++
      waiverBytes (l.current.elim [] fun r => r.waivers))

def execReadHolds (tag : Byte) (lot : LotNo) (s : State) : Host.Outcome State Fault Refusal :=
  serve (.readHolds tag lot) tag (serveReadHolds lot) s

/-! ### RELEASE LOT (R172 to R174) -/

/-- R172: step numbers 1 to n. -/
def stepsUpTo (n : Nat) : List Nat := (List.range n).map fun k => k + 1

/-- R172: a step is proven. -/
def State.proven (s : State) (l : Lot) (step : Nat) : Bool :=
  let read := s.readBaselineOf l step
  read.2 && decide (l.snapshot.learnMin ≤ read.1.count)

/-- R172: the first unproven step, where the snapshot requires learned baselines. -/
def State.firstUnproven (s : State) (l : Lot) : Option Nat :=
  if l.snapshot.requireLearned then (stepsUpTo l.snapshot.steps.length).find? fun k => !s.proven l k else none

/-- R172: checks 2 to 5, with the number the reply and the event carry. -/
def State.releaseRefusal (s : State) (l : Lot) : Option (Status × Nat) :=
  if l.state ≠ .complete then some (.wrongState, 0)
  else if l.holds ≠ [] then some (.held, leadingRank l.holds)
  else if l.shipQuantity.getD 0 = 0 then some (.nothingToShip, 0)
  else (s.firstUnproven l).map fun k => (.unproven, k)

/-- R172: RELEASE_REFUSED, posted by every refusal but TICKET_MISMATCH. -/
def State.postRefused (s : State) (n : LotNo) (st : Status) (number : Nat) (attempts : Byte) : State :=
  s.post .releaseRefused n (u8 st.code ++ u8 number ++ [attempts])

/-- R172: the fields that a refusal carries after its status. -/
def refusedFields (st : Status) (number : Nat) : List Byte := if st = .held ∨ st = .unproven then u8 number else []

/-- R172: a refusal of a release for a lot in the table. -/
def State.releaseRefused (s : State) (l : Lot) (st : Status) (number : Nat) : State × Answer :=
  refuseWith (s.postRefused l.number st number (BitVec.ofNat 8 l.attempts)) st (refusedFields st number)

/-- R173: a ticket mismatch. -/
def State.ticketMismatch (s : State) (l : Lot) : State × Answer :=
  let attempts := l.attempts + 1
  let s := s.modLot l.number fun l => { l with attempts := l.attempts + 1 }
  let s := if attempts = Config.lockoutAttempts then s.enterHold l.number .releaseLockout [] else s
  refuseWith s .ticketMismatch (u8 attempts)

/-- R174: the yields at close of a lot from step 1 to its final step. -/
def Lot.closingYields (l : Lot) : List (Option Nat) := (l.records.take l.currentStep).map fun r => r.yieldAtClose

/-- R174: the lot after its release. -/
def Lot.released (l : Lot) (now : Tick) : Lot :=
  { l with
    state := .released, attempts := 0
    release := some { tick := now, shipQuantity := l.shipQuantity.getD 0, yields := l.closingYields } }

/-- R174: a release. R174 states no width for the ship quantity of the OK reply: that it takes 4 bytes there, as in the RELEASED
event and in READ RELEASE QUEUE, though its range needs 3, is DEDUCED (log 5). -/
def State.release (s : State) (l : Lot) : State × Answer :=
  let position := s.releaseQueue.length + 1
  let ship := l.shipQuantity.getD 0
  let s := s.modLot l.number fun l => l.released s.tick
  let s := { s with releaseQueue := s.releaseQueue ++ [l.number] }
  let s := s.post .released l.number (u32 ship ++ u8 position ++ u8 l.snapshot.steps.length)
  accept s (u8 position ++ u32 ship)

/-- RELEASE LOT (R172 to R174). -/
def serveReleaseLot (n : LotNo) (ticket : BitVec 32) (s : State) : State × Answer :=
  match s.findLot n with
  | .error st => refuseWith (s.postRefused n st 0 (Config.refusedCountNoLot n)) st []
  | .ok l =>
    match s.releaseRefusal l with
    | some (st, number) => s.releaseRefused l st number
    | none =>
      if l.ticket ≠ 0 ∧ ticket ≠ l.ticket then s.ticketMismatch l
      else if Config.releaseRoom ≤ s.releaseQueue.length then s.releaseRefused l .queueFull 0
      else s.release l

def execReleaseLot (tag : Byte) (lot : LotNo) (ticket : BitVec 32) (s : State) : Host.Outcome State Fault Refusal :=
  serve (.releaseLot tag lot ticket) tag (serveReleaseLot lot ticket) s

/-! ### SHIP CONFIRM and READ RELEASE QUEUE (R175, R178) -/

/-- R175: the lot at the head of the release queue is shipped. -/
def State.ship (s : State) (l : Lot) : State × Answer :=
  let left := s.releaseQueue.tail
  let s := { s with releaseQueue := left }
  let s := s.modLot l.number fun l => { l with state := .shipped }
  let s := s.post .shipped l.number (u32 (l.shipQuantity.getD 0) ++ u8 left.length)
  accept s (u8 left.length)

/-- SHIP CONFIRM (R175). -/
def serveShipConfirm (n : LotNo) (s : State) : State × Answer :=
  match s.findLot n with
  | .error st => refuse s st
  | .ok l =>
    match s.releaseQueue with
    | [] => refuse s .wrongState
    | head :: _ =>
      if head ≠ n then refuseWith s .notNext (u32 head.toNat)
      else if l.state ≠ .released then refuse s .wrongState
      else s.ship l

def execShipConfirm (tag : Byte) (lot : LotNo) (s : State) : Host.Outcome State Fault Refusal :=
  serve (.shipConfirm tag lot) tag (serveShipConfirm lot) s

/-- R178: an entry of the release queue. -/
def Lot.releaseEntry (l : Lot) : List Byte :=
  u32 l.number.toNat ++ u16 l.product.toNat ++ u32 (l.shipQuantity.getD 0) ++ u32 (l.release.elim 0 fun r => r.tick.toNat)

/-- READ RELEASE QUEUE (R178). -/
def serveReadReleaseQueue (s : State) : State × Answer :=
  let lots := s.releaseQueue.filterMap s.lot?
  accept s (u8 lots.length ++ lots.flatMap Lot.releaseEntry)

def execReadReleaseQueue (tag : Byte) (s : State) : Host.Outcome State Fault Refusal :=
  serve (.readReleaseQueue tag) tag serveReadReleaseQueue s

end Sys2Proof.Machine
end

