-- ==== Sys2Proof/Machine/Trunks.lean ====
section
/-! DEFINITION. The rows of Chapter 2: polls and answers, command deadlines, enrolment, aliases and STATION PASS. -/

namespace Sys2Proof.Machine

/-! ### Trunk events (R18 to R20, R32) -/

/-- R19: a trunk may send its next poll. -/
def State.pollDue (s : State) (t : TrunkNo) : Bool :=
  (s.trunk t).outstanding.isNone && (s.trunk t).gap.isNone && (s.nextAddr t).isSome

/-- POLL_SENT (R19, R20, R30). -/
def execPollSent (t : TrunkNo) (s : State) : Host.Outcome State Fault Refusal :=
  happen (s.pollDue t) (fun s => match s.nextAddr t with | some a => s.sendPoll t a | none => s) s

/-- ROUND_GAP_EXPIRY (R19): the pause ends and a new round begins. -/
def execRoundGapExpiry (t : TrunkNo) (s : State) : Host.Outcome State Fault Refusal :=
  happen (s.trunk t).gap.isSome (fun s => s.setTrunk t { s.trunk t with gap := none }) s

/-- R20: the poll outstanding on a trunk ends. -/
def State.endPoll (s : State) (t : TrunkNo) : State := s.setTrunk t { s.trunk t with outstanding := none }

/-- R18, R19: the poll and answer of a trunk, where the bytes are a well-formed answer to the poll outstanding and its place
is still the one polled. -/
def State.answerTo (s : State) (t : TrunkNo) (bytes : List Byte) : Option (Place × AnswerFlags × Option Report) :=
  match (s.trunk t).outstanding with
  | none => none
  | some o =>
    if o.abandoned then none
    else match readAnswer ((addrOf o.place).val + 1) bytes with
      | none => none
      | some (f, report) => some (o.place, f, readReport report)

/-- ANSWER_TAKEN (R18, R20, R21); bytes that form no well-formed answer are discarded and the window runs on. -/
def execAnswerTaken (t : TrunkNo) (bytes : List Byte) (s : State) : Host.Outcome State Fault Refusal :=
  happen (s.answerTo t bytes).isSome
    (fun s => match s.answerTo t bytes with
      | some (p, f, r) => ((s.endPoll t).takeAnswer p f r).settleTrunk t
      | none => s) s

/-- POLL_MISS (R20, R23 to R25). -/
def execPollMiss (t : TrunkNo) (s : State) : Host.Outcome State Fault Refusal :=
  happen (s.trunk t).outstanding.isSome
    (fun s => match (s.trunk t).outstanding with
      | some o => (if o.abandoned then s.endPoll t else (s.endPoll t).takeMiss o.place).settleTrunk t
      | none => s) s

/-- R32: the deadline of the command in flight has come. -/
def State.commandDue (s : State) (p : Place) : Bool := (s.station p).inFlight.any fun f => f.deadline.due s.tick

/-- R32: the command in flight fails with TIMEOUT, a late-end wait begins and the command is handed to its issuer. -/
def State.expireCommand (s : State) (p : Place) : State :=
  match (s.station p).inFlight with
  | none => s
  | some f =>
    (s.modStation p fun st => { st with inFlight := none, lateEnd := some (s.deadlineIn s.policy.commandTimeout) }).handEnd
      p f.command .timeout noFlags none

/-- COMMAND_DEADLINE_EXPIRY (R32): one expiry of an increment, taken by its own row (log 11). -/
def execCommandDeadlineExpiry (p : Place) (s : State) : Host.Outcome State Fault Refusal :=
  happen (s.commandDue p) (fun s => s.expireCommand p) s

/-- R32: the deadline of the late-end wait has come. -/
def State.lateEndDue (s : State) (p : Place) : Bool := (s.station p).lateEnd.any fun d => d.due s.tick

/-- R32: the wait for a late end ends. -/
def State.expireLateEnd (s : State) (p : Place) : State := s.modStation p fun st => { st with lateEnd := none }

/-- LATE_END_WAIT_EXPIRY (R32): one expiry of an increment, taken by its own row (log 11). -/
def execLateEndWaitExpiry (p : Place) (s : State) : Host.Outcome State Fault Refusal :=
  happen (s.lateEndDue p) (fun s => s.expireLateEnd p) s

/-! ### Enrolment (R22, R27, R28) -/

/-- The place a trunk and an address byte name, where both are in range (R22, R38). -/
def placeNamed (trunk address : Byte) : Option Place :=
  if h : trunk.toNat < 4 ∧ 1 ≤ address.toNat ∧ address.toNat ≤ 8 then
    some (placeOf ⟨trunk.toNat, h.1⟩ ⟨address.toNat - 1, by omega⟩)
  else none

/-- R22: an enrolled station. -/
def Station.enrol (kind : StationKind) : Station := { Station.reset with state := .joining, kind := some kind }

/-- ENROLL STATION (R22). That an ABSENT place which a docked cell holds can be enrolled with the other kind than R75 gives it is
DEDUCED (log 23). -/
def serveEnrollStation (trunk address kind : Byte) (s : State) : State × Answer :=
  match placeNamed trunk address, StationKind.ofCode kind.toNat with
  | some p, some k =>
    if (s.station p).state ≠ .absent then refuse s .exists_
    else accept (s.setStation p (Station.enrol k)) (u8 p.val)
  | _, _ => refuse s .range

def execEnrollStation (tag trunk address kind : Byte) (s : State) : Host.Outcome State Fault Refusal :=
  serve (.enrollStation tag trunk address kind) tag (serveEnrollStation trunk address kind) s

/-- RETIRE STATION (R27). -/
def serveRetireStation (al : Byte) (s : State) : State × Answer :=
  match s.resolveSingle al with
  | .error st => refuse s st
  | .ok p =>
    if (s.station p).state = .absent then refuse s .already
    else if s.isDocked p then refuse s .inUse
    else if (s.station p).kind = some .tester ∧ (s.tester p).opState ≠ .idle then refuse s .inUse
    else accept (s.retire p) []

def execRetireStation (tag al : Byte) (s : State) : Host.Outcome State Fault Refusal :=
  serve (.retireStation tag al) tag (serveRetireStation al) s

/-- R28: the fields of a member's record. -/
def Station.bytes (p : Place) (st : Station) : List Byte :=
  u8 p.val ++ u8 st.state.code ++ u8 st.kindCode ++
    (yesNo st.model.isSome ++ u16 (st.model.getD 0) ++ u16 (st.firmware.getD 0)) ++
    u8 st.misses ++ yesNo st.freshAck ++ yesNo st.alarm ++
    (u8 st.queue.length ++ st.queue.map fun q => Config.categoryCode q.category.index) ++
    (match st.inFlight with
      | some f => yesNo true ++ [Config.categoryCode f.command.category.index] ++ u32 f.sentAt.toNat
      | none => yesNo false ++ u8 0 ++ u32 0) ++
    yesNo st.lateEnd.isSome

/-- R28: what a reader is shown of a station: of an ABSENT place, every field as at reset. -/
def Station.shown (st : Station) : Station := if st.state = .absent then Station.reset else st

/-- READ STATION (R28). -/
def serveReadStation (al : Byte) (s : State) : State × Answer :=
  match s.resolve al with
  | .error st => refuse s st
  | .ok e => accept s (u8 e.members.length ++ e.members.flatMap fun p => (s.station p).shown.bytes p)

def execReadStation (tag al : Byte) (s : State) : Host.Outcome State Fault Refusal :=
  serve (.readStation tag al) tag (serveReadStation al) s

/-! ### Aliases (R35 to R37) -/

/-- The places a list of bytes names, where all are in 0..31. -/
def placesNamed : List Byte → Option (List Place)
  | [] => some []
  | b :: bs =>
    if h : b.toNat < 32 then (placesNamed bs).map fun ps => ⟨b.toNat, h⟩ :: ps else none

/-- No place named twice. -/
def distinctPlaces : List Place → Bool
  | [] => true
  | p :: ps => !ps.contains p && distinctPlaces ps

/-- R35: the entry a DEFINE ALIAS spells, where its values are in range. -/
def aliasSpelled (al answering : Byte) (places : List Byte) : Option AliasEntry :=
  match placesNamed places with
  | none => none
  | some ps =>
    if al = 0 ∨ al = 255 ∨ ps.length < 1 ∨ 4 < ps.length ∨ distinctPlaces ps = false then none
    else match ps.find? (fun p => p.val == answering.toNat) with
      | none => none
      | some a => some { number := al, members := ps, answering := a }

/-- R35: every docked cell that names an alias holds, in that role, the one place of `members`. -/
def State.aliasKept (s : State) (al : Byte) (members : List Place) : Bool :=
  allCells.all fun c =>
    match (s.cell c).dock with
    | none => true
    | some d => (d.handlerAlias != al || members == [d.handler]) && (d.testerAlias != al || members == [d.tester])

/-- R35, R36: an alias is named as the handler alias or the tester alias of a docked cell. -/
def State.aliasDocked (s : State) (al : Byte) : Bool :=
  allCells.any fun c =>
    match (s.cell c).dock with
    | none => false
    | some d => d.handlerAlias == al || d.testerAlias == al

/-- DEFINE ALIAS (R35). -/
def serveDefineAlias (al answering : Byte) (places : List Byte) (s : State) : State × Answer :=
  match aliasSpelled al answering places with
  | none => refuse s .range
  | some e =>
    let known := (s.alias? al).isSome
    if known = true ∧ s.aliasKept al e.members = false then refuse s .inUse
    else if known = false ∧ Config.aliasRoom ≤ s.aliases.length then refuse s .tableFull
    else accept { s with aliases := putBy (fun e => e.number.toNat) e s.aliases } []

def execDefineAlias (tag al answering : Byte) (places : List Byte) (s : State) : Host.Outcome State Fault Refusal :=
  serve (.defineAlias tag al answering places) tag (serveDefineAlias al answering places) s

/-- DELETE ALIAS (R36). -/
def serveDeleteAlias (al : Byte) (s : State) : State × Answer :=
  match s.resolve al with
  | .error st => refuse s st
  | .ok _ =>
    if s.aliasDocked al then refuse s .inUse
    else accept { s with aliases := s.aliases.filter fun e => e.number != al } []

def execDeleteAlias (tag al : Byte) (s : State) : Host.Outcome State Fault Refusal :=
  serve (.deleteAlias tag al) tag (serveDeleteAlias al) s

/-- READ ALIAS (R37). That the places of all members stand before the station states of all members is DEDUCED (log 5). -/
def serveReadAlias (al : Byte) (s : State) : State × Answer :=
  if al = 0 then accept s (u8 s.aliases.length ++ s.aliases.map fun e => e.number)
  else match s.resolve al with
    | .error st => refuse s st
    | .ok e =>
      accept s (u8 e.members.length ++ u8 e.answering.val ++ (e.members.flatMap fun p => u8 p.val) ++
        e.members.flatMap fun p => u8 (s.station p).state.code)

def execReadAlias (tag al : Byte) (s : State) : Host.Outcome State Fault Refusal :=
  serve (.readAlias tag al) tag (serveReadAlias al) s

/-! ### STATION PASS (R38) -/

/-- R38: the members and the answering member of a pass, or the refusal. -/
def State.passTargets (s : State) (al trunk address : Byte) : Except Status (List Place × Place) :=
  if al = 0 then
    if s.policy.openPass = false then .error .noSuch
    else match placeNamed trunk address with
      | none => .error .range
      | some p => .ok ([p], p)
  else match s.resolve al with
    | .error st => .error st
    | .ok e => .ok (e.members, e.answering)

/-- R38: the check of one member of a pass. -/
def State.passRefusal (s : State) (p : Place) : Option Status :=
  let st := s.station p
  if st.state = .absent then some .stationAbsent
  else if st.state ≠ .online then some .stationLost
  else if st.queued .pass ∨ st.flying .pass then some .stationBusy
  else none

/-- R38: the checks of STATION PASS, with the members and answering member of a pass that is taken. -/
def State.passChecks (s : State) (al trunk address : Byte) (command : List Byte) : Except Status (List Place × Place) :=
  if command.length < 1 ∨ Config.reportMax < command.length then .error .range
  else match s.passTargets al trunk address with
    | .error st => .error st
    | .ok m => match m.1.findSome? s.passRefusal with
      | some st => .error st
      | none => .ok m

/-- R38: the command is offered to every member in member order. -/
def State.offerPass (s : State) (members : List Place) (command : List Byte) : State :=
  members.foldl (fun s p => s.offerDrop p (.pass command)) s

/-- STATION PASS (R38): refused, or offered with its reply deferred: the request stays the one being served. -/
def execStationPass (tag al trunk address : Byte) (command : List Byte) (s : State) : Host.Outcome State Fault Refusal :=
  match s.passChecks al trunk address command with
  | .error st => serve (.stationPass tag al trunk address command) tag (fun s => refuse s st) s
  | .ok m =>
    if s.inReset.isNone && s.takes (.stationPass tag al trunk address command) then
      .next { s.offerPass m.1 command with
        serving := some { request := .stationPass tag al trunk address command, deferred := some m.2 } }
    else serve (.stationPass tag al trunk address command) tag (fun s => refuse s .busy) s

end Sys2Proof.Machine
end

