-- ==== Sys2Proof/Machine/Time.lean ====
section
/-! DEFINITION. The Time Base (R12): an increment of the tick counter, with the deadlines that expire at it. -/

namespace Sys2Proof.Machine

/-! ### The expiries of one increment (R12) -/

/-- R12, R32: the deadline of a place's command in flight expires if its increment has come. -/
def State.takeCommandExpiry (s : State) (p : Place) : State := if s.commandDue p then s.expireCommand p else s

/-- R12, R32: a place's wait for a late end expires if its increment has come. -/
def State.takeLateEndExpiry (s : State) (p : Place) : State := if s.lateEndDue p then s.expireLateEnd p else s

/-- R12, R84: the deadline of a cell's SETUP expires if its increment has come. -/
def State.takeSetupExpiry (s : State) (c : CellNo) : State := if s.phaseDue c .setup then s.expireSetup c else s

/-- R12, R87: the soak deadline of a cell expires if its increment has come. -/
def State.takeSoakExpiry (s : State) (c : CellNo) : State := if s.soakDue c then s.expireSoak c else s

/-- R12, R93: the stop deadline of a cell expires if its increment has come. -/
def State.takeStopExpiry (s : State) (c : CellNo) : State := if s.phaseDue c .stopping then s.expireStop c else s

/-- The expiries of one cell. -/
def State.takeCellExpiries (s : State) (c : CellNo) : State :=
  ((s.takeSetupExpiry c).takeSoakExpiry c).takeStopExpiry c

/-- R12: every deadline whose increment has come expires. The spec does not order the expiries of one increment; that the
commands in flight go first, then the waits for late ends, then the cells, each by ascending number, is a DESIGN CHOICE
(log 11). -/
def State.expireAll (s : State) : State :=
  allCells.foldl State.takeCellExpiries
    (allPlaces.foldl State.takeLateEndExpiry (allPlaces.foldl State.takeCommandExpiry s))

/-- TICK (R12, R82, R119): the counter rises, the countdown timers fall, and the deadlines of this increment expire. -/
def execTick (s : State) : Host.Outcome State Fault Refusal := happen true (fun s => s.tickOnce.expireAll) s

end Sys2Proof.Machine
end

