-- ==== Sys2Proof/Machine/Dispatch.lean ====
section
/-! DEFINITION. The dispatch of commands to their meanings, one arm for each row of spec/opcode_table.json. -/

namespace Sys2Proof.Machine

def exec (i : Instr) (s : State) : Host.Outcome State Fault Refusal :=
  match i with
  | .frameStart b => Sys2Proof.Machine.execFrameStart b s
  | .byteGathered b => Sys2Proof.Machine.execByteGathered b s
  | .lengthDiscard b => Sys2Proof.Machine.execLengthDiscard b s
  | .interByteGapExpiry => Sys2Proof.Machine.execInterByteGapExpiry s
  | .checkFailed b => Sys2Proof.Machine.execCheckFailed b s
  | .frameReceived b => Sys2Proof.Machine.execFrameReceived b s
  | .busy b => Sys2Proof.Machine.execBusy b s
  | .replyListFullDrop b => Sys2Proof.Machine.execReplyListFullDrop b s
  | .replySent => Sys2Proof.Machine.execReplySent s
  | .fullReset cause => Sys2Proof.Machine.execFullReset cause s
  | .resetEnd => Sys2Proof.Machine.execResetEnd s
  | .tick => Sys2Proof.Machine.execTick s
  | .identify tag => Sys2Proof.Machine.execIdentify tag s
  | .fetchEvents tag => Sys2Proof.Machine.execFetchEvents tag s
  | .setAttention tag fields => Sys2Proof.Machine.execSetAttention tag fields s
  | .setPolicy tag fields => Sys2Proof.Machine.execSetPolicy tag fields s
  | .commitPolicy tag => Sys2Proof.Machine.execCommitPolicy tag s
  | .readPolicy tag => Sys2Proof.Machine.execReadPolicy tag s
  | .pollSent t => Sys2Proof.Machine.execPollSent t s
  | .roundGapExpiry t => Sys2Proof.Machine.execRoundGapExpiry t s
  | .answerTaken t bytes => Sys2Proof.Machine.execAnswerTaken t bytes s
  | .pollMiss t => Sys2Proof.Machine.execPollMiss t s
  | .commandDeadlineExpiry p => Sys2Proof.Machine.execCommandDeadlineExpiry p s
  | .lateEndWaitExpiry p => Sys2Proof.Machine.execLateEndWaitExpiry p s
  | .enrollStation tag trunk address kind => Sys2Proof.Machine.execEnrollStation tag trunk address kind s
  | .retireStation tag al => Sys2Proof.Machine.execRetireStation tag al s
  | .readStation tag al => Sys2Proof.Machine.execReadStation tag al s
  | .defineAlias tag al answering places => Sys2Proof.Machine.execDefineAlias tag al answering places s
  | .deleteAlias tag al => Sys2Proof.Machine.execDeleteAlias tag al s
  | .readAlias tag al => Sys2Proof.Machine.execReadAlias tag al s
  | .stationPass tag al trunk address command => Sys2Proof.Machine.execStationPass tag al trunk address command s
  | .stageProduct tag version => Sys2Proof.Machine.execStageProduct tag version s
  | .activateProduct tag product => Sys2Proof.Machine.execActivateProduct tag product s
  | .discardStaged tag product => Sys2Proof.Machine.execDiscardStaged tag product s
  | .deleteProduct tag product => Sys2Proof.Machine.execDeleteProduct tag product s
  | .readProduct tag product selector => Sys2Proof.Machine.execReadProduct tag product selector s
  | .setBaseline tag product step count values => Sys2Proof.Machine.execSetBaseline tag product step count values s
  | .readBaseline tag product step => Sys2Proof.Machine.execReadBaseline tag product step s
  | .createLot tag lot product quantity priority ticket => Sys2Proof.Machine.execCreateLot tag lot product quantity priority ticket s
  | .setPriority tag lot priority => Sys2Proof.Machine.execSetPriority tag lot priority s
  | .readLot tag lot selector => Sys2Proof.Machine.execReadLot tag lot selector s
  | .listLots tag filter start => Sys2Proof.Machine.execListLots tag filter start s
  | .purgeLot tag lot => Sys2Proof.Machine.execPurgeLot tag lot s
  | .dockCell tag cell handlerAlias testerAlias => Sys2Proof.Machine.execDockCell tag cell handlerAlias testerAlias s
  | .undockCell tag cell => Sys2Proof.Machine.execUndockCell tag cell s
  | .readCell tag cell => Sys2Proof.Machine.execReadCell tag cell s
  | .resetCell tag cell => Sys2Proof.Machine.execResetCell tag cell s
  | .recoveryTimerExpiry c => Sys2Proof.Machine.execRecoveryTimerExpiry c s
  | .setupExpired c => Sys2Proof.Machine.execSetupExpired c s
  | .soakDeadlineExpiry c => Sys2Proof.Machine.execSoakDeadlineExpiry c s
  | .stopExpired c => Sys2Proof.Machine.execStopExpired c s
  | .loadProgram tag al slot programId programRevision check => Sys2Proof.Machine.execLoadProgram tag al slot programId programRevision check s
  | .eraseSlot tag al slot => Sys2Proof.Machine.execEraseSlot tag al slot s
  | .verifySlot tag al slot => Sys2Proof.Machine.execVerifySlot tag al slot s
  | .qualifySlot tag al slot => Sys2Proof.Machine.execQualifySlot tag al slot s
  | .setLockOverride tag al value => Sys2Proof.Machine.execSetLockOverride tag al value s
  | .purgeTester tag al => Sys2Proof.Machine.execPurgeTester tag al s
  | .setProtectFloor tag al value => Sys2Proof.Machine.execSetProtectFloor tag al value s
  | .clearTesterErrors tag al => Sys2Proof.Machine.execClearTesterErrors tag al s
  | .readTester tag al => Sys2Proof.Machine.execReadTester tag al s
  | .dispatchEvaluation => Sys2Proof.Machine.execDispatchEvaluation s
  | .agePromotion => Sys2Proof.Machine.execAgePromotion s
  | .cancelAssignment tag lot => Sys2Proof.Machine.execCancelAssignment tag lot s
  | .readQueue tag => Sys2Proof.Machine.execReadQueue tag s
  | .readInsertion tag lot step => Sys2Proof.Machine.execReadInsertion tag lot step s
  | .holdLot tag lot => Sys2Proof.Machine.execHoldLot tag lot s
  | .dispose tag lot cause verdict => Sys2Proof.Machine.execDispose tag lot cause verdict s
  | .readHolds tag lot => Sys2Proof.Machine.execReadHolds tag lot s
  | .releaseLot tag lot ticket => Sys2Proof.Machine.execReleaseLot tag lot ticket s
  | .shipConfirm tag lot => Sys2Proof.Machine.execShipConfirm tag lot s
  | .readReleaseQueue tag => Sys2Proof.Machine.execReadReleaseQueue tag s

end Sys2Proof.Machine
end

