-- ==== Sys2Proof/Machine/Pins.lean ====
section
/-! DEFINITION. What the part drives on its outputs while it carries out a command: the trunk direction outputs, the trunk
lines and FL_TXD (R16, Section 2.1). ATTN is a function of the state alone (`State.attnLow`). -/

namespace Sys2Proof.Machine

/-- Section 2.1: the level of a trunk's direction output. -/
inductive Direction where
  | transmit
  | receive
  deriving DecidableEq, Repr

/-- R19, R16: carrying out a command sends a poll on a trunk. -/
def State.sendsPoll (s : State) (c : Instr) (t : TrunkNo) : Bool := s.inReset.isNone && c == .pollSent t && s.pollDue t

/-- Section 2.1, R16: a trunk's direction output while the part carries out a command: transmit while a poll is sent and
receive at all other times, so receive throughout a reset. Polls are sent whole within POLL_SENT (log 18). -/
def State.direction (s : State) (c : Instr) (t : TrunkNo) : Direction := if s.sendsPoll c t then .transmit else .receive

/-- R6, R16: the bytes that go out on FL_TXD while the part carries out a command: the frame of the oldest reply at
REPLY_SENT, out of reset. Where there are none, FL_TXD stands at its idle level, which is high. -/
def State.linkBytes (s : State) (c : Instr) : List Byte :=
  if s.inReset.isNone && c == .replySent then s.replies.head?.elim [] Reply.frame else []

end Sys2Proof.Machine
end

