-- ==== Sys2Proof/Safety.lean ====
section
/-! DEFINITION. The terms in which claims are made: when the part takes a request, what a reply adds, the invariants that
every step keeps, and the relations between states that commands respect. -/

namespace Sys2Proof.Machine

/-! ### Requests -/

/-- R4, R6, R16: the part is out of reset, serves no request, and its reply list has room: a request that arrives now is
served. -/
abbrev State.Listening (s : State) : Prop := s.inReset = none ∧ s.serving = none ∧ s.replies.length < 4

/-- The state with one more reply in the list. -/
def State.replied (s : State) (kind tag : Byte) (payload : List Byte) : State :=
  { s with replies := s.replies ++ [{ kind := kind, tag := tag, payload := payload }] }

/-- A record at the tail of an event queue that has room, or one more discard where it has none (R8): the state's tick is the
record's. -/
abbrev State.Posted (s u : State) (kind : EventKind) (subject : BitVec 32) (detail : List Byte) : Prop :=
  if s.events.length < 64 then
    u.events = s.events ++ [{ kind := kind, tick := s.tick, subject := subject, detail := detail }] ∧ u.discards = s.discards
  else u.events = s.events ∧ u.discards = min 255 (s.discards + 1)

/-- R34: an alias number that is in the table, with its entry. -/
abbrev State.HasAlias (s : State) (al : Byte) (e : AliasEntry) : Prop := al ≠ 0 ∧ al ≠ 255 ∧ s.alias? al = some e

/-- R34: a single alias in the table, with its one place. -/
abbrev State.SingleAlias (s : State) (al : Byte) (p : Place) : Prop := ∃ e, s.HasAlias al e ∧ e.members = [p]

/-- R97: a single alias of an enrolled tester. -/
abbrev State.TesterAlias (s : State) (al : Byte) (p : Place) : Prop :=
  s.SingleAlias al p ∧ (s.station p).state ≠ .absent ∧ (s.station p).kind = some .tester

/-- R56: a lot record under its number, which is not 0. -/
abbrev State.HasLot (s : State) (n : LotNo) (l : Lot) : Prop := n ≠ 0 ∧ s.lot? n = some l

/-- R41: a catalog entry under its number, which is not 0. -/
abbrev State.HasProduct (s : State) (n : ProductNo) (e : Product) : Prop := n ≠ 0 ∧ s.product? n = some e

/-! ### Frames -/

/-- Section 1.9: the bytes of an answer with a station address, a status byte and a report. -/
def answerBytes (address : Nat) (status : Byte) (report : List Byte) : List Byte :=
  let body := u8 (address + 0x80) ++ [status] ++ u8 report.length ++ report
  body ++ checkBytes body

/-- R1, R2: the byte completes a whole frame in BODY: the buffer and the byte are the frame of a kind, a tag and a payload
with the two bytes of a received check. -/
abbrev State.Completes (s : State) (b kind tag : Byte) (payload check : List Byte) : Prop :=
  s.receiver.phase = .body ∧ payload.length ≤ 1024 ∧ check.length = 2 ∧
    s.receiver.buffer ++ [b] = [0xA5] ++ (u16 (payload.length + 2) ++ [kind, tag] ++ payload) ++ check

/-- R2: the check computed over the length, kind, tag and payload of a frame. -/
abbrev rightCheck (kind tag : Byte) (payload : List Byte) : List Byte :=
  checkBytes (u16 (payload.length + 2) ++ [kind, tag] ++ payload)

/-! ### Fields of replies -/

/-- R71, R116, R145: a field with a presence field before it: 1 and the value's bytes, or 0 and as many bytes of 0 as the value
takes (the place of the presence field is the model's choice, log 5). -/
def optional {α : Type} (width : Nat) (enc : α → List Byte) : Option α → List Byte
  | some x => [1] ++ enc x
  | none => List.replicate (width + 1) 0

/-- A yes/no field: the part writes 1 for yes (Chapter 1, introduction). -/
def flag (b : Bool) : List Byte := if b = true then [1] else [0]

/-- Section 3.2: the fields of a version in the order and widths of the two tables. -/
def versionFields (v : Version) : List Byte :=
  u16 v.product.toNat ++ u8 v.steps.length ++ v.good.toList.flatMap flag ++ (v.margins.toList.flatMap fun m => u32 m) ++
    u8 v.gain ++ u8 v.shift ++ u16 v.sampleMin ++ u16 v.yieldFloor ++ u8 v.learnMin ++ u16 v.lossAllowance ++
    flag v.enables.countOver ++ flag v.enables.tallyGap ++ flag v.enables.countShort ++ flag v.enables.tempExcursion ++
    flag v.enables.binLimit ++ flag v.enables.yieldLow ++ flag v.requireLearned ++
    v.steps.flatMap fun x =>
      i16 x.setpoint ++ u16 x.window ++ u16 x.soak ++ u8 x.kit ++ u16 x.program.id ++ u8 x.program.revision ++
        u32 x.program.check.toNat

/-- R9 and the event kinds table of Section 1.3: the codes of the class and of the kind within it. -/
def eventCodes : EventKind → Byte × Byte
  | .resetDone => (1, 1)
  | .policyCommitted => (1, 2)
  | .stationOnline => (2, 1)
  | .stationLost => (2, 2)
  | .stationRestart => (2, 3)
  | .enrollFailed => (2, 4)
  | .strayReport => (2, 5)
  | .cellIdle => (3, 1)
  | .cellFaulted => (3, 2)
  | .kitNeeded => (3, 3)
  | .setupExpired => (3, 4)
  | .stopExpired => (3, 5)
  | .loadResult => (4, 1)
  | .eraseResult => (4, 2)
  | .verifyResult => (4, 3)
  | .purgeDone => (4, 4)
  | .assigned => (5, 1)
  | .assignmentCancelled => (5, 2)
  | .insertionStarted => (5, 3)
  | .insertionClosed => (5, 4)
  | .finding => (5, 5)
  | .holdRaised => (5, 6)
  | .holdDisposed => (5, 7)
  | .lotComplete => (5, 8)
  | .released => (6, 1)
  | .releaseRefused => (6, 2)
  | .recalled => (6, 3)
  | .shipped => (6, 4)

/-! ### Polls and the commands they carry -/

/-- R20, Section 1.9: the bytes of a poll of a station address. -/
def pollBytes (address : Nat) (freshSeen : Bool) (command : List Byte) : List Byte :=
  let body := u8 address ++ flag freshSeen ++ u8 command.length ++ command
  body ++ checkBytes body

/-- The command tables of Sections 5.2 and 6.2: the kind byte and the fields; a pass-through command is the host's bytes. -/
def commandLayout : Command → List Byte
  | .setSetpoint _ z => [0x21] ++ i16 z
  | .startInsertion number lot step quantity => [0x22] ++ u16 number ++ u32 lot.toNat ++ u8 step ++ u32 quantity
  | .stopSegment number => [0x23] ++ u16 number
  | .slotCommand .load slot id revision => [0x41] ++ u8 slot.val ++ u16 id ++ u8 revision
  | .slotCommand .erase slot _ _ => [0x42] ++ u8 slot.val
  | .slotCommand .verify slot _ _ => [0x43] ++ u8 slot.val
  | .slotCommand .select slot _ _ => [0x44] ++ u8 slot.val
  | .pass bytes => bytes

/-- R30: the ticks a command is given from its poll. -/
def commandTicks (p : Policy) : Command → Nat
  | .setSetpoint _ _ => p.commandTimeout
  | .startInsertion _ _ _ _ => p.commandTimeout
  | .stopSegment _ => p.stopTimeout
  | .slotCommand .load _ _ _ => p.loadTimeout
  | .slotCommand .erase _ _ _ => p.commandTimeout
  | .slotCommand .verify _ _ _ => p.loadTimeout
  | .slotCommand .select _ _ _ => p.commandTimeout
  | .pass _ => p.commandTimeout

/-- Section 5.2: the commands that the part itself gives a handler. -/
def Command.forHandler : Command → Bool
  | .setSetpoint _ _ => true
  | .startInsertion _ _ _ _ => true
  | .stopSegment _ => true
  | .slotCommand _ _ _ _ => false
  | .pass _ => false

/-- Chapter 6: the commands that the part itself gives a tester. -/
def Command.forSlots : Command → Bool
  | .slotCommand _ _ _ _ => true
  | .setSetpoint _ _ => false
  | .startInsertion _ _ _ _ => false
  | .stopSegment _ => false
  | .pass _ => false

/-! ### Answers -/

/-- R19, R20: the part is out of reset, and a poll to an address of a trunk is outstanding whose place is still polled. -/
abbrev State.Polled (s : State) (t : TrunkNo) (a : AddrIx) : Prop :=
  s.inReset = none ∧ ∃ o, (s.trunk t).outstanding = some o ∧ o.place = placeOf t a ∧ o.abandoned = false

/-- R19: what the record `x` of a trunk settles into, `y`, beside the stations of the state `v`: a trunk without an enrolled place
has no position and no pause; one with no poll outstanding and no enrolled address above its position ends its round and pauses;
any other stays as it is. -/
abbrev State.Settles (v : State) (t : TrunkNo) (x y : Trunk) : Prop :=
  if ∀ b, (v.station (placeOf t b)).state = .absent then y = { x with position := none, gap := none }
  else if x.outstanding = none ∧ ∃ q, x.position = some q ∧ ∀ b, q < b → (v.station (placeOf t b)).state = .absent then
    y = { x with position := none, gap := some v.policy.roundGap }
  else y = x

/-- R19, R20: what the end of the poll outstanding on a trunk makes of the four trunks: this one settles without it, and the others
stay as they were. -/
abbrev State.PollEnds (s u : State) (t : TrunkNo) : Prop :=
  u.Settles t { s.trunk t with outstanding := none } (u.trunk t) ∧ ∀ t', t' ≠ t → u.trunk t' = s.trunk t'

/-- R18, R21: the answer of a status byte and a report is taken from the place an address of a trunk names: the part goes on
to the state `u`, but that the poll has ended and its trunk has settled. -/
abbrev State.Answers (s : State) (t : TrunkNo) (a : AddrIx) (status : Byte) (report : List Byte) (u : State) : Prop :=
  ∃ v : State, exec (.answerTaken t (answerBytes (a.val + 1) status report)) s = .next v ∧
    v = { u with trunks := v.trunks } ∧ s.PollEnds v t

/-- R75: a place is the handler place of a docked cell, and of no other. -/
abbrev State.HandlerOf (s : State) (p : Place) (c : CellNo) (d : Dock) : Prop :=
  (s.cell c).dock = some d ∧ d.handler = p ∧ ∀ x e, (s.cell x).dock = some e → e.handler = p → x = c

/-- R75: a place is the handler place or the tester place of a docked cell, and of no other. -/
abbrev State.HeldBy (s : State) (p : Place) (c : CellNo) (d : Dock) : Prop :=
  (s.cell c).dock = some d ∧ (d.handler = p ∨ d.tester = p) ∧
    ∀ x e, (s.cell x).dock = some e → (e.handler = p ∨ e.tester = p) → x = c

/-- R92, R29: what the offer of a STOP makes of a station record. -/
def Station.withStop (st : Station) (number : Nat) : Station :=
  if st.state = .online ∧ st.kind = some .handler ∧ st.queued .stop = false ∧ st.flying .stop = false then
    { st with queue := .stopSegment number :: st.queue }
  else st

/-- R114, R115: a tester with no operation and no command of its own, and no readiness request. -/
abbrev Tester.Unoccupied (x : Tester) : Prop :=
  x.opState = .idle ∧ x.outstanding = none ∧ x.next = none ∧ x.readiness = none

/-- R21, R24, R26: a station record after an answer whose fresh-start and alarm flags are clear. -/
def Station.heard (st : Station) : Station := { st with misses := 0, freshAck := false, alarm := false }

/-! ### Increments (R12) -/

/-- The rows of the expiries in the order in which one increment takes them (log 11). -/
def expiryRows : List Instr :=
  allPlaces.map Instr.commandDeadlineExpiry ++ allPlaces.map Instr.lateEndWaitExpiry ++
    allCells.flatMap fun c => [.setupExpired c, .soakDeadlineExpiry c, .stopExpired c]

/-- A list of commands, carried out one after another from `s`, leads to `t`. -/
def State.Runs : List Instr → State → State → Prop
  | [], s, t => t = s
  | c :: cs, s, t => ∃ u, exec c s = .next u ∧ State.Runs cs u t

/-- R12, R32, R84, R87, R93: no deadline of the state stands due. -/
abbrev State.NoneDue (s : State) : Prop :=
  (∀ p f, (s.station p).inFlight = some f → elapsed s.tick f.deadline.start < f.deadline.span) ∧
  (∀ p d, (s.station p).lateEnd = some d → elapsed s.tick d.start < d.span) ∧
  (∀ c d, (s.cell c).state = .setup ∨ (s.cell c).state = .stopping → (s.cell c).phaseDeadline = some d →
    elapsed s.tick d.start < d.span) ∧
  ∀ c q d, (s.cell c).state = .preparing → (s.cell c).insertion = none → (s.cell c).prep = some q →
    q.soakDeadline = some d → d.expired = false → elapsed s.tick d.deadline.start < d.deadline.span

/-! ### Cancellations -/

/-- R113: what the withdrawal of a readiness request of the cell `c` makes of the testers. -/
abbrev State.Withdrawn (s u : State) (c : CellNo) (d : Dock) : Prop :=
  (∀ p, p ≠ d.tester → u.tester p = s.tester p) ∧
  (if (s.tester d.tester).readiness.any (fun r => r.cell == c) then
    u.tester d.tester = { s.tester d.tester with
      readiness := none, next := none
      outstanding := (s.tester d.tester).outstanding.map fun o =>
        { o with awaited := if o.op = .select then false else o.awaited } }
  else u.tester d.tester = s.tester d.tester)

/-- R90 and R113: what a cancellation that leaves the cell IDLE does to the cell `c` docked as `d`, the lot `l` it works on
(record `w`), the dispatch queue, the tester's readiness request and the event queue; everything else stays. -/
abbrev State.Cancelled (s u : State) (c : CellNo) (d : Dock) (w : Work) (l : Lot) (cause : Nat) : Prop :=
  u = { s with
    cells := s.cells.set c { s.cell c with
      state := .idle, work := none, prep := none, insertion := none, phaseDeadline := none }
    lots := s.lots.map fun x => if x.number = l.number then { x with state := .waiting, cell := none } else x
    dispatchQueue := if l.holds = [] then putBy BitVec.toNat l.number s.dispatchQueue else s.dispatchQueue
    evalPending := s.evalPending || s.committed
    testers := u.testers, events := u.events, discards := u.discards } ∧
  s.Posted u .assignmentCancelled l.number (u8 c.val ++ u8 w.step ++ u8 cause) ∧ s.Withdrawn u c d

/-- R90, R94: what a cancellation by the loss of a station does: the cell is FAULTED, and CELL_FAULTED with its own cause
follows the event of the cancellation. -/
abbrev State.CancelledByLoss (s u : State) (c : CellNo) (d : Dock) (w : Work) (l : Lot) (cause fault : Nat) : Prop :=
  ∃ v : State,
    v = { s with
      cells := s.cells.set c { s.cell c with
        state := .faulted, work := none, prep := none, insertion := none, phaseDeadline := none }
      lots := s.lots.map fun x => if x.number = l.number then { x with state := .waiting, cell := none } else x
      dispatchQueue := if l.holds = [] then putBy BitVec.toNat l.number s.dispatchQueue else s.dispatchQueue
      evalPending := s.evalPending || (l.holds.isEmpty && s.committed)
      testers := v.testers, events := v.events, discards := v.discards } ∧
    s.Posted v .assignmentCancelled l.number (u8 c.val ++ u8 w.step ++ u8 cause) ∧ s.Withdrawn v c d ∧
    u = { v with events := u.events, discards := u.discards } ∧
    v.Posted u .cellFaulted (BitVec.ofNat 32 c.val) (u8 fault ++ u32 l.number.toNat)

/-! ### Ends of the handler commands other than DONE (R85, R89) -/

/-- R85: the preparation of the cell `c` docked as `d` commands the setpoint of its step `st` again: setpoint done is taken back,
the soak is discarded, and SET SETPOINT is offered under a fresh reference (the model's own counter, log 3); an offer that fails
at once cancels with SETPOINT_FAILED. -/
abbrev State.CommandsAgain (v u : State) (c : CellNo) (d : Dock) (st : RouteStep) : Prop :=
  ∀ (q : Prep) (x : Cell), (v.cell c).prep = some q →
    x = { v.cell c with
      prep := some { q with
        setpointDone := false, soakStart := none, soakDeadline := none, setpointCommand := some v.nextRef } } →
    ((v.station d.handler).state = .online → (v.station d.handler).queued .internal = false →
      u = { v with
        nextRef := v.nextRef + 1, cells := v.cells.set c x
        stations := v.stations.set d.handler { v.station d.handler with
          queue := (v.station d.handler).queue ++ [Command.setSetpoint v.nextRef st.setpoint] } }) ∧
    ((v.station d.handler).state ≠ .online ∨ (v.station d.handler).queued .internal = true →
      ∀ w l, x.work = some w → v.HasLot w.lot l →
        { v with
          nextRef := v.nextRef + 1
          cells := v.cells.set c { x with
            commanded := none, dock := some { d with recovery := v.policy.recoveryTime } } }.Cancelled u c d w l 4)

/-- R85, R90: a SET SETPOINT of the place `p` with a reference ends FAILED or TIMEOUT: nothing happens where no cell holds the
place; the commanded setpoint becomes absent; the end of a preparation's own command cancels with SETPOINT_FAILED, with the
recovery timer loaded, and that of an earlier one makes a preparation that has setpoint done, and no start offered, command the
setpoint again. -/
abbrev State.SetpointFails (v u : State) (p : Place) (ref : Nat) : Prop :=
  ((∀ c d, (v.cell c).dock = some d → d.handler ≠ p) → u = v) ∧
  ∀ (c : CellNo) (d : Dock) (y z : Cell), v.HandlerOf p c d → v.cell c = y → z = { y with commanded := none } →
    (y.state ≠ .preparing → u = { v with cells := v.cells.set c z }) ∧
    ∀ q w l, y.state = .preparing → y.prep = some q → y.work = some w → v.HasLot w.lot l →
      (q.setpointCommand = some ref →
        { v with cells := v.cells.set c { z with dock := some { d with recovery := v.policy.recoveryTime } } }.Cancelled
          u c d w l 4) ∧
      (q.setpointCommand ≠ some ref →
        (q.setpointDone = false ∨ y.insertion ≠ none → u = { v with cells := v.cells.set c z }) ∧
        ∀ st, q.setpointDone = true → y.insertion = none → l.stepAt w.step = some st →
          { v with cells := v.cells.set c z }.CommandsAgain u c d st)

/-- R89, R90, R92: a START INSERTION of the place `p` with a number ends FAILED or TIMEOUT: the end of the number that a PREPARING
cell has offered cancels with START_FAILED, with the recovery timer loaded, and after a TIMEOUT a STOP of that number is
offered; the end of another number changes nothing. -/
abbrev State.StartFails (v u : State) (p : Place) (n : Nat) (timeout : Bool) : Prop :=
  (∀ c d y w l, v.HandlerOf p c d → v.cell c = y → y.state = .preparing → y.insertion = some n → y.work = some w →
    v.HasLot w.lot l →
    ∃ z : State,
      { v with cells := v.cells.set c { y with dock := some { d with recovery := v.policy.recoveryTime } } }.Cancelled
        z c d w l 5 ∧
      u = if timeout then z.setStation p ((v.station p).withStop n) else z) ∧
  ((∀ c d, (v.cell c).dock = some d → d.handler = p → (v.cell c).state ≠ .preparing ∨ (v.cell c).insertion ≠ some n) → u = v)

/-! ### Readiness plans (R103 to R107, R111, R112) -/

/-- R111: the first command of a plan, with its slot. -/
def planStart : Plan → TesterOp × SlotNo
  | .select k => (.select, k)
  | .verify k => (.verify, k)
  | .load k => (.load, k)
  | .eraseLoad k => (.erase, k)

/-- Section 6.2: the command of a stage; LOAD alone carries the program id and revision. -/
def stageCommand (op : TesterOp) (k : SlotNo) (id : ProgramId) : Command :=
  match op with
  | .load => .slotCommand .load k id.id id.revision
  | .erase => .slotCommand .erase k 0 0
  | .verify => .slotCommand .verify k 0 0
  | .select => .slotCommand .select k 0 0

/-- R103, R105, R106, R107, R112: a tester record `x` whose readiness request comes to the stage of a command: the operation,
with origin DISPATCH and its result reported, the slot and the command outstanding. -/
abbrev Tester.Staged (x y : Tester) (op : TesterOp) (k : SlotNo) (id : ProgramId) : Prop :=
  ∃ o : Operation, o.slot = k ∧ o.origin = .dispatch ∧ o.reported = true ∧ o.members = 1 ∧ (op = .load → o.expected = id) ∧
    (op = .verify → (x.slot k).program = some (id.id, id.revision) → (x.slot k).check = some id.check → o.expected = id) ∧
    y = { (match op with
        | .select => x
        | .verify => { x with opState := .verifying, operation := some o }
        | .load => { x with
            opState := .loading, operation := some o
            slots := x.slots.set k { x.slot k with
              state := .loading, program := some (id.id, id.revision), check := none } }
        | .erase => { x with
            opState := .erasing, operation := some o
            slots := x.slots.set k { x.slot k with state := .erasing } }) with
      readiness := x.readiness.map fun r => { r with stage := op }
      outstanding := some { op := op, slot := k, awaited := true } }

/-- R112, R29: the stage's command joins the tail of the tester's queue. -/
abbrev State.StageOffered (v u : State) (p : Place) (op : TesterOp) (k : SlotNo) (id : ProgramId) : Prop :=
  ∃ y : Tester, (v.tester p).Staged y op k id ∧
    u = { v with
      testers := v.testers.set p y
      stations := v.stations.set p { v.station p with queue := (v.station p).queue ++ [stageCommand op k id] } }

/-- R83, R98, R112: the readiness request of a cell that has just entered PREPARING: the plan's first command is offered, or
waits while another is outstanding, or there is no plan and the assignment is cancelled with PROGRAM_FAILED. -/
abbrev State.Readied (v u : State) (c : CellNo) (d : Dock) (st : RouteStep) : Prop :=
  ((v.tester d.tester).plan st.program v.tick = none →
    ∀ w l, (v.cell c).work = some w → v.lot? w.lot = some l → v.Cancelled u c d w l 6) ∧
  ∀ (plan : Plan) (x : Tester), (v.tester d.tester).plan st.program v.tick = some plan →
    x = { v.tester d.tester with
      readiness := some { cell := c, program := st.program, plan := plan, stage := (planStart plan).1 } } →
    (x.outstanding = none → (v.station d.tester).state = .online → (v.station d.tester).queued .internal = false →
      { v with testers := v.testers.set d.tester x }.StageOffered u d.tester (planStart plan).1 (planStart plan).2 st.program) ∧
    (x.outstanding ≠ none →
      u = { v with testers := v.testers.set d.tester { x with
        next := some { op := (planStart plan).1, slot := (planStart plan).2, afterOp := x.opState != .idle } } })

/-- R83, R85: a cell enters PREPARING: its preparation record, the offer of SET SETPOINT where the setpoint is not the step's
(with a reference from the model's own counter, log 3), which cancels with SETPOINT_FAILED where it fails at once, and the
readiness request. -/
abbrev State.EntersPreparing (v u : State) (c : CellNo) (d : Dock) (st : RouteStep) : Prop :=
  ∀ (x : Cell) (q : Prep), x = { v.cell c with state := .preparing, phaseDeadline := none, prep := some q } →
    q = { setpointDone := decide (x.commanded = some st.setpoint), programDone := false, soakStart := none
          soakDeadline := none, setpointCommand := if x.commanded = some st.setpoint then none else some v.nextRef } →
    (x.commanded = some st.setpoint → { v with cells := v.cells.set c x }.Readied u c d st) ∧
    (x.commanded ≠ some st.setpoint →
      ((v.station d.handler).state = .online → (v.station d.handler).queued .internal = false →
        { v with
          nextRef := v.nextRef + 1, cells := v.cells.set c x
          stations := v.stations.set d.handler { v.station d.handler with
            queue := (v.station d.handler).queue ++ [Command.setSetpoint v.nextRef st.setpoint] } }.Readied u c d st) ∧
      ((v.station d.handler).state ≠ .online ∨ (v.station d.handler).queued .internal = true →
        ∀ w l, x.work = some w → v.lot? w.lot = some l →
          { v with
            nextRef := v.nextRef + 1
            cells := v.cells.set c { x with
              commanded := none, dock := some { d with recovery := v.policy.recoveryTime } } }.Cancelled u c d w l 4))

/-! ### The ends of a tester's operations -/

/-- R103, R105, R106: the slot of an operation that ends DONE or FAILED. -/
def endedSlot (x : Slot) (op : TesterOp) (o : Operation) (failed : Bool) : Slot :=
  match op, failed with
  | .load, false => { x with
      state := .verified, program := some (o.expected.id, o.expected.revision), check := some o.expected.check
      lastSelected := none }
  | .load, true => { x with state := .fault, program := some (o.expected.id, o.expected.revision), check := none }
  | .erase, false => { state := .empty, program := none, check := none, locked := false, lastSelected := none }
  | .erase, true => { x with state := .fault }
  | .verify, false => { x with state := .verified }
  | .verify, true => { x with state := .fault }
  | .select, _ => x

/-- R103, R105, R106: the tester record after an operation that ends DONE or FAILED: IDLE, with the slot, the selected slot and
the error flag written. -/
def Tester.operationEnded (x : Tester) (op : TesterOp) (o : Operation) (failed : Bool) : Tester :=
  { x with
    opState := .idle, operation := none, outstanding := none
    slots := x.slots.set o.slot (endedSlot (x.slot o.slot) op o failed)
    selected := if op = .erase ∧ failed = false ∧ x.selected = some o.slot then none else x.selected
    loadError := x.loadError || (failed && op != .erase)
    eraseError := x.eraseError || (failed && op == .erase) }

/-- R99, R103, R105, R106: the event of a reported operation that ends with the code of an outcome: DONE (0), FAILED (2) or
TIMEOUT (3). -/
def resultEvent (x : Tester) (op : TesterOp) (o : Operation) (outcome : Nat) : EventKind × List Byte :=
  let head : List Byte := u8 o.slot.val ++ u8 outcome ++ u8 (match o.origin with | .host => 0 | .dispatch => 1)
  match op with
  | .load => (.loadResult, head ++ u16 o.expected.id ++ u8 o.expected.revision ++ u8 o.members)
  | .verify => (.verifyResult, head)
  | .erase | .select => (.eraseResult, head ++ flag (outcome != 0 && (x.slot o.slot).locked))

/-- R98, R99, R112: how the readiness request `r` of a tester goes on in `v` when an operation `o` of the tester, started by the
command `op`, has ended and the record has come from `x` to `y`. The request's own failed operation, or a waiting command for
which a plan computed afresh finds none, cancels with PROGRAM_FAILED; its own done operation brings it to the next stage; a
command that waited for another's operation is offered from the fresh plan; where neither is so nothing more happens. -/
abbrev State.PlanGoesOn (v u : State) (p : Place) (op : TesterOp) (x y : Tester) (o : Operation) (r : Readiness)
    (failed : Bool) : Prop :=
  (∀ z d w l, (v.cell r.cell) = z → z.state = .preparing → z.dock = some d → d.tester = p → z.work = some w → v.HasLot w.lot l →
    (x.next = none ∧ o.origin = .dispatch ∧ r.stage = op ∧ failed = true ∨
      (∃ n, x.next = some n ∧ n.afterOp = true) ∧ y.plan r.program v.tick = none) →
    { v with testers := v.testers.set p { y with readiness := none, next := none } }.Cancelled u r.cell d w l 6) ∧
  (x.next = none → o.origin = .dispatch → r.stage = op → failed = false → (v.station p).state = .online →
    (v.station p).queued .internal = false →
    v.StageOffered u p (if op = .erase then .load else .select) o.slot r.program) ∧
  (∀ n plan, x.next = some n → n.afterOp = true → y.plan r.program v.tick = some plan → (v.station p).state = .online →
    (v.station p).queued .internal = false →
    { v with testers := v.testers.set p { y with
      next := none, readiness := some { r with plan := plan, stage := (planStart plan).1 } } }.StageOffered u p
        (planStart plan).1 (planStart plan).2 r.program) ∧
  (x.next = none → (o.origin ≠ .dispatch ∨ r.stage ≠ op) → u = v)

/-- R98, R99, R103, R105 to R107, R110, R112: a command of the Slot Manager on the tester `p` (record `x`) ends TIMEOUT. One that is
no longer awaited leaves the tester, and a waiting command follows it. An awaited LOAD, VERIFY or ERASE ends its operation as a
failed one with the outcome 3 in its result (a LOAD that is not reported has none, R104), and the purge where it is a purge's; an
awaited SELECT makes the selected slot absent and sets the load error. The readiness request then goes on as R112 gives. -/
abbrev State.SlotCommandTimesOut (v u : State) (p : Place) (op : TesterOp) (k : SlotNo) : Prop :=
  ∀ (x : Tester) (awaited : Bool), v.tester p = x → x.outstanding = some { op := op, slot := k, awaited := awaited } →
    (awaited = false → ∀ y : State, y = { v with testers := v.testers.set p { x with outstanding := none } } →
      (x.next = none → u = y) ∧
      ∀ n r, x.next = some n → x.readiness = some r → n.afterOp = false →
        (n.op = .erase → (x.slot n.slot).locked = false ∨ x.lockOverride = true) → (v.station p).state = .online →
        (v.station p).queued .internal = false →
        { v with testers := v.testers.set p { x with outstanding := none, next := none } }.StageOffered u p n.op n.slot
          r.program) ∧
    (awaited = true → ∀ o y, op ≠ .select → x.operation = some o → o.slot = k → y = x.operationEnded op o true →
      ∀ event : EventKind × List Byte,
        (op = .erase ∧ x.opState = .purging ∧ o.origin = .host ∧ event = (.purgeDone, u8 o.erased ++ u8 k.val ++ [3]) ∨
          x.opState ≠ .purging ∧ o.reported = true ∧ event = resultEvent x op o 3) →
        ∃ z : State,
          z = { v with
            testers := v.testers.set p y, evalPending := v.evalPending || v.committed
            events := z.events, discards := z.discards } ∧
          v.Posted z event.1 (BitVec.ofNat 32 p.val) event.2 ∧
          (x.readiness = none → x.next = none → u = z) ∧
          ∀ r, x.readiness = some r → z.PlanGoesOn u p op x y o r true) ∧
    (awaited = true → ∀ o, op = .load → x.operation = some o → o.slot = k → o.reported = false → x.readiness = none →
      x.next = none →
      u = { v with
        testers := v.testers.set p (x.operationEnded .load o true), evalPending := v.evalPending || v.committed }) ∧
    (awaited = true → op = .select → x.next = none → ∀ y, y = { x with outstanding := none, selected := none, loadError := true } →
      (x.readiness = none → u = { v with testers := v.testers.set p y }) ∧
      ∀ r z d w l, x.readiness = some r → r.stage = .select → v.cell r.cell = z → z.state = .preparing → z.dock = some d →
        d.tester = p → z.work = some w → v.HasLot w.lot l →
        { v with testers := v.testers.set p { y with readiness := none } }.Cancelled u r.cell d w l 6)

/-- R110: a slot that a purge takes: below P, not EMPTY, not the selected slot while a cell that holds the tester is PREPARING
or RUNNING, and unlocked or with the lock override on. -/
abbrev State.PurgeTakes (s : State) (p : Place) (x : Tester) (j : SlotNo) : Prop :=
  j.val < x.protectFloor ∧ (x.slot j).state ≠ .empty ∧
    (x.selected = some j → ∀ c d, (s.cell c).dock = some d → d.tester = p →
      (s.cell c).state ≠ .preparing ∧ (s.cell c).state ≠ .running) ∧
    ((x.slot j).locked = false ∨ x.lockOverride = true)

/-! ### The arbitration walk (R83, R84, R121, R125 to R127) -/

/-- R127: a candidate takes its best cell: it is ASSIGNED and out of the queue, cell and lot refer to each other, ASSIGNED is
posted, and the cell enters SETUP with KIT_NEEDED (class 3) or PREPARING (classes 0 to 2). -/
abbrev State.Takes (s u : State) (l : Lot) (st : RouteStep) (d : Dock) (o : Offer) : Prop :=
  ∃ v : State,
    v = { s with
      lots := s.lots.map fun (x : Lot) => if x.number = l.number then { x with state := .assigned, cell := some o.cell } else x
      dispatchQueue := s.dispatchQueue.filter fun m => m != l.number
      cells := s.cells.set o.cell { s.cell o.cell with work := some { lot := l.number, step := l.currentStep } }
      events := v.events, discards := v.discards } ∧
    s.Posted v .assigned l.number (u8 o.cell.val ++ u8 l.currentStep ++ u8 o.cls ++
      u8 (l.priority - elapsed s.tick l.enqueueTick / s.policy.ageStep) ++ u16 o.distance) ∧
    (o.cls = 3 →
      u = { v with
        cells := v.cells.set o.cell { v.cell o.cell with
          state := .setup, phaseDeadline := some { start := s.tick, span := s.policy.setupTimeout } }
        events := u.events, discards := u.discards } ∧
      v.Posted u .kitNeeded (BitVec.ofNat 32 o.cell.val)
        (u32 l.number.toNat ++ u8 l.currentStep ++ u8 st.kit ++ u8 d.kit)) ∧
    (o.cls ≠ 3 → v.EntersPreparing u o.cell d st)

/-- R125, R126: the candidates are offered, one after another, the free cells that no earlier one has taken. One without a best
cell is skipped, and so is one other than the head whose best cell is of class 3, which leaves the cell free. -/
def State.Walked : Bool → List Lot → List CellNo → State → State → Prop
  | _, [], _, s, t => t = s
  | head, l :: rest, free, s, t =>
    match l.stepAt l.currentStep with
    | none => State.Walked false rest free s t
    | some st =>
      match s.bestCell st free with
      | none => State.Walked false rest free s t
      | some o =>
        if o.cls = 3 ∧ head = false then State.Walked false rest free s t
        else ∃ u : State, (∀ d, (s.cell o.cell).dock = some d → s.Takes u l st d o) ∧
          State.Walked false rest (free.filter fun c => c != o.cell) u t

/-! ### Partial closes -/

/-- R139, R142, R143, R146: what a partial close asked with CELL_FAULT does to the cell `c` (record `y`), which comes to a
state, and to its lot `l` with its current record `r`, for a close cause; everything else stays. -/
abbrev State.CutOff (s u : State) (c : CellNo) (y : Cell) (w : Work) (l : Lot) (r : Insertion) (after : CellState)
    (cause : Nat) : Prop :=
  ∃ (l' : Lot) (r' : Insertion),
    u = { s with
      lots := u.lots
      cells := s.cells.set c { y with
        state := after, work := none, prep := none, insertion := none, phaseDeadline := none }
      dispatchQueue := if l'.holds = [] then putBy BitVec.toNat w.lot s.dispatchQueue else s.dispatchQueue
      evalPending := s.evalPending || ((after == .idle || l'.holds.isEmpty) && s.committed)
      events := u.events, discards := u.discards } ∧
    (∀ n, n ≠ w.lot → u.lot? n = s.lot? n) ∧ u.lot? w.lot = some l' ∧
    l' = { l with state := .waiting, cell := none, records := l'.records, holds := l'.holds } ∧
    l'.current = some r' ∧ r' = { r with outcome := .partialHeld, number := none, findings := r'.findings } ∧
    (∃ f ∈ r'.findings, f.cause = .cellFault) ∧
    (Cause.cellFault ∉ r.waivers → ∃ h ∈ l'.holds, h.cause = .cellFault) ∧
    ((∀ f ∈ r.findings, f.cause ≠ .cellFault) → Cause.cellFault ∉ r.waivers → (∀ h ∈ l.holds, h.cause ≠ .cellFault) →
      s.events.length + 3 ≤ 64 → u.events = s.events ++
        [{ kind := .finding, tick := s.tick, subject := w.lot
           detail := u8 l.currentStep ++ [3, 3] ++ u8 cause ++ u16 (y.insertion.getD 0) ++ [0, 0] },
         { kind := .holdRaised, tick := s.tick, subject := w.lot
           detail := [3] ++ u8 l.currentStep ++ u8 (leadingRank l'.holds) ++ u8 (l.holds.length + 1) ++ [1] },
         { kind := .insertionClosed, tick := s.tick, subject := w.lot
           detail := u8 l.currentStep ++ [2] ++ u8 cause ++ u24 r.tested ++ u16 (r.yieldAtClose.getD 65535) }])

/-! ### The checks of the Hold Monitor -/

/-- R52: the baseline set that the checks of a lot's current step read: the catalog's for that step, or sixteen zeros with
N = 0 where it has none. -/
def State.baselineSeen (s : State) (l : Lot) : Baseline :=
  ((s.product? l.product).bind fun e => e.baselines[l.currentStep - 1]?).getD { values := Vector.replicate 16 0, count := 0 }

/-- R152: a fail bin whose fraction of T devices exceeds its limit. -/
abbrev Offends (v : Version) (b : Baseline) (tested : Nat) (bins : Vector Nat 16) (i : Bin) : Prop :=
  v.good[i] = false ∧ limitOf b.values[i] v.margins[i] v.gain < fractionOf bins[i] tested

/-- R152: BIN_LIMIT is found: enough devices, a learned baseline and an offending bin. -/
abbrev BinLimitTrips (v : Version) (b : Baseline) (tested : Nat) (bins : Vector Nat 16) : Prop :=
  1 ≤ tested ∧ v.sampleMin ≤ tested ∧ v.learnMin ≤ b.count ∧ ∃ i, Offends v b tested bins i

/-- R160: what a record's findings hold of a cause after a check that found it or not, where none stood before: one with its
bins, or none. -/
abbrev FoundAfresh (before after : List Finding) (cause : Cause) (found : Prop) (bins : Bin → Prop) : Prop :=
  (found → ∃ f ∈ after, f.cause = cause ∧ ∀ i, bins i → i ∈ f.bins) ∧
  ((∀ f ∈ before, f.cause ≠ cause) → ∀ f ∈ after, f.cause = cause → found ∧ ∀ i, i ∈ f.bins ↔ bins i)

/-! ### Proven steps -/

/-- R172 check 5, R52: the lot is current, and N of the step's baseline set is at least the snapshot's learn minimum. -/
abbrev State.StepProven (s : State) (l : Lot) (k : Nat) : Prop :=
  ∃ e b, s.product? l.product = some e ∧ l.revision = e.revision ∧ e.baselines[k - 1]? = some b ∧
    l.snapshot.learnMin ≤ b.count

/-! ### Bounds of the link and the tables -/

/-- R6, R8: the event queue, the discard count and the reply list stay in their bounds; one place of the list is kept for the
reply of the request being served. -/
abbrev State.LinkBounded (s : State) : Prop :=
  s.events.length ≤ 64 ∧ s.discards ≤ 255 ∧ s.replies.length + (if s.serving.isSome then 1 else 0) ≤ 4

/-- R56: no two lot records share a number; the table is held by ascending number. -/
abbrev State.LotsOrdered (s : State) : Prop := s.lots.Pairwise fun a b => a.number.toNat < b.number.toNat

/-- Sections 2.4, 3.1, 4.1, R171: the tables hold their keys once each and no more than their rooms. -/
abbrev State.TablesBounded (s : State) : Prop :=
  s.LotsOrdered ∧ s.lots.length ≤ 64 ∧
  (s.aliases.Pairwise fun a b => a.number.toNat < b.number.toNat) ∧ s.aliases.length ≤ 24 ∧
  (s.catalog.Pairwise fun a b => a.number.toNat < b.number.toNat) ∧ s.catalog.length ≤ 16 ∧
  s.releaseQueue.length ≤ 16

/-- R13: the ten fields of the policy lie in their ranges. -/
abbrev Policy.InRange (p : Policy) : Prop :=
  1 ≤ p.lookahead ∧ p.lookahead ≤ 8 ∧ p.ageStep ≤ 65535 ∧ 100 ≤ p.setupTimeout ∧ p.setupTimeout ≤ 36000 ∧
  5 ≤ p.commandTimeout ∧ p.commandTimeout ≤ 600 ∧ 100 ≤ p.loadTimeout ∧ p.loadTimeout ≤ 36000 ∧
  10 ≤ p.stopTimeout ∧ p.stopTimeout ≤ 6000 ∧ p.recoveryTime ≤ 6000 ∧ 1 ≤ p.answerWindow ∧ p.answerWindow ≤ 50 ∧
  p.roundGap ≤ 100

/-- The ranges of single fields: the policy (R13), the recovery timers (Section 5.1), the miss counts (Section 2.2), the
protect floors (Section 6.1), the insertion number counter (R88), and evaluation pending only under a committed policy
(R120). -/
abbrev State.FieldsInRange (s : State) : Prop :=
  s.policy.InRange ∧ (∀ c : CellNo, ∀ d : Dock, (s.cell c).dock = some d → d.recovery ≤ 6000) ∧
  (∀ p : Place, (s.station p).misses ≤ 3) ∧ (∀ p : Place, (s.tester p).protectFloor ≤ 8) ∧
  1 ≤ s.nextInsertion ∧ s.nextInsertion ≤ 65535 ∧ (s.evalPending = true → s.committed = true)

/-! ### Station queues -/

/-- R29: a queue holds at most one command of each category. -/
abbrev Station.OnePerCategory (st : Station) : Prop :=
  st.queue.countP (fun q => q.category == .internal) ≤ 1 ∧ st.queue.countP (fun q => q.category == .stop) ≤ 1 ∧
  st.queue.countP (fun q => q.category == .pass) ≤ 1

/-- R29, R24: every queue holds at most one command of each category, and a place that is not ONLINE holds no command and
awaits no late end. -/
abbrev State.QueuesKept (s : State) : Prop :=
  ∀ p : Place, (s.station p).OnePerCategory ∧
    ((s.station p).state ≠ .online →
      (s.station p).queue = [] ∧ (s.station p).inFlight = none ∧ (s.station p).lateEnd = none)

/-! ### Accounts and baselines -/

/-- R135: the bins of a record sum to its tested count, the good bins to its good count, and the count is in its range. -/
abbrev Insertion.Balanced (good : Vector Bool 16) (r : Insertion) : Prop :=
  r.tested = (allBins.map fun b => r.bins[b]).sum ∧
  r.good = (allBins.map fun b => if good[b] then r.bins[b] else 0).sum ∧ r.tested ≤ 16777215

/-- R135: every insertion record balances. -/
abbrev State.Accounted (s : State) : Prop :=
  s.LotsOrdered ∧ ∀ l ∈ s.lots, ∀ r ∈ l.records, r.Balanced l.snapshot.good

/-- R51: a baseline set in its ranges. -/
abbrev Baseline.InRange (b : Baseline) : Prop := b.count ≤ 255 ∧ ∀ i : Bin, b.values[i] ≤ 65536

/-- R51, R47: every baseline set is in its ranges, and an entry has one for each step of its active version. -/
abbrev State.Learned (s : State) : Prop :=
  s.Accounted ∧ ∀ e ∈ s.catalog, (∀ b ∈ e.baselines, b.InRange) ∧
    e.baselines.length = e.active.elim 0 (fun v => v.steps.length)

/-- R166: an attempt count stays within 0..3, and is 3 only while RELEASE_LOCKOUT is in the hold set. -/
abbrev State.AttemptsBounded (s : State) : Prop :=
  s.LotsOrdered ∧ ∀ l ∈ s.lots, l.attempts ≤ 3 ∧ (l.attempts = 3 → ∃ h ∈ l.holds, h.cause = .releaseLockout)

/-! ### The references between lots, cells and queues -/

/-- The cell states in which a cell works on a lot (Section 5.1). -/
def CellState.working : CellState → Bool
  | .setup => true
  | .preparing => true
  | .running => true
  | .stopping => true
  | .empty | .idle | .faulted => false

/-- R58: the state of the lot a working cell refers to. -/
def CellState.lotState : CellState → LotState
  | .running => .running
  | .stopping => .running
  | .empty | .idle | .faulted | .setup | .preparing => .assigned

/-- The states in which a lot carries a cell (R58). -/
def LotState.onCell : LotState → Bool
  | .assigned => true
  | .running => true
  | .waiting | .complete | .released | .shipped | .scrapped => false

/-- The states in which a hold set is empty (R159, R171). -/
def LotState.unheld : LotState → Bool
  | .assigned => true
  | .released => true
  | .shipped => true
  | .scrapped => true
  | .waiting | .running | .complete => false

/-- A lot record holds one insertion record for each step of its snapshot, and its current step is one of them (R64, R68). -/
abbrev Lot.Formed (l : Lot) : Prop :=
  l.records.length = l.snapshot.steps.length ∧ 1 ≤ l.currentStep ∧ l.currentStep ≤ l.records.length

/-- R58: a working cell refers to one lot, which refers back to it in the state that belongs to the cell's; another cell to
none. -/
abbrev State.CellsLinked (s : State) : Prop :=
  ∀ c : CellNo, (s.cell c).work.isSome = (s.cell c).state.working ∧ ((s.cell c).dock = none ↔ (s.cell c).state = .empty) ∧
    ∀ w, (s.cell c).work = some w →
      ∃ l ∈ s.lots, l.number = w.lot ∧ l.cell = some c ∧ l.currentStep = w.step ∧ l.state = (s.cell c).state.lotState

/-- R58: a lot carries a cell exactly while ASSIGNED or RUNNING, and that cell works on it. -/
abbrev State.LotsLinked (s : State) : Prop :=
  ∀ l ∈ s.lots, l.cell.isSome = l.state.onCell ∧
    ∀ c, l.cell = some c → (s.cell c).work = some { lot := l.number, step := l.currentStep }

/-- R117: the dispatch queue holds exactly the lots that are WAITING with an empty hold set. -/
abbrev State.DispatchExact (s : State) : Prop :=
  s.dispatchQueue = (s.lots.filter fun l => l.state == .waiting && l.holds.isEmpty).map fun l => l.number

/-- R171: the release queue holds exactly the lots that are RELEASED, once each. -/
abbrev State.ReleaseExact (s : State) : Prop :=
  s.releaseQueue.Nodup ∧ (∀ n ∈ s.releaseQueue, ∃ l ∈ s.lots, l.number = n ∧ l.state = .released) ∧
    ∀ l ∈ s.lots, l.state = .released → l.number ∈ s.releaseQueue

/-- The references between lots, cells and queues: R58, R117, R171, with R159's empty hold sets and the form of the records
they rest on. -/
abbrev State.Linked (s : State) : Prop :=
  s.LotsOrdered ∧ (∀ l ∈ s.lots, l.Formed) ∧ s.CellsLinked ∧ s.LotsLinked ∧ s.DispatchExact ∧ s.ReleaseExact ∧
  (∀ l ∈ s.lots, l.state.unheld = true → l.holds = []) ∧
  (∀ e ∈ s.catalog, ∀ v, e.active = some v ∨ e.staged = some v → 1 ≤ v.steps.length)

/-! ### What is written once -/

/-- R59: the fields a lot record keeps for life. -/
structure LotIdentity where
  number : LotNo
  product : ProductNo
  revision : Nat
  snapshot : Version
  startQuantity : Nat
  ticket : BitVec 32
  deriving DecidableEq, Repr

/-- R59: the fields of a record written at its creation. -/
def Lot.identity (l : Lot) : LotIdentity :=
  { number := l.number, product := l.product, revision := l.revision, snapshot := l.snapshot, startQuantity := l.startQuantity
    ticket := l.ticket }

/-- R75: the places and aliases of a docked cell. -/
def Dock.stations (d : Dock) : Place × Byte × Place × Byte := (d.handler, d.handlerAlias, d.tester, d.testerAlias)

/-! ### Tickets -/

/-- R59: two lot records that differ at most in the values of tickets that are not blank. -/
abbrev Lot.SameButTicket (a b : Lot) : Prop := { a with ticket := 0 } = { b with ticket := 0 } ∧ (a.ticket = 0 ↔ b.ticket = 0)

/-- R59: two states that differ at most in the values of tickets that are not blank. -/
abbrev State.SameButTickets (s t : State) : Prop :=
  { s with lots := [] } = { t with lots := [] } ∧ List.Forall₂ Lot.SameButTicket s.lots t.lots

end Sys2Proof.Machine
end

