-- ==== Sys2Proof/Certificates/Slice0/Obligations.lean ====
section
/-! DEFINITION. The statements for the provers. -/

open Sys2Proof Sys2Proof.Machine

/-! ### The step, the receiver and the reply list (Chapter 1) -/

/-- A step carries out the command at the front of the queue on the state with the queue's rest; with nothing waiting the
part stays as it is (the model's choice, log 1). -/
def Obligations.StepRunsFrontCommand : Prop :=
  (∀ (c : Instr) (rest : List Instr) (s : State),
    step { s with pending := c :: rest } = exec c { s with pending := rest }) ∧
  ∀ s : State, s.pending = [] → step s = .next s

/-- R1: FRAME_START, BYTE_GATHERED, LENGTH_DISCARD and INTER_BYTE_GAP_EXPIRY move the receiver and nothing else. -/
def Obligations.BytesAreGathered : Prop :=
  ∀ (b : Byte) (s : State), s.inReset = none →
    (s.receiver.phase = .hunt →
      exec (.frameStart b) s =
        .next (if b = 0xA5 then { s with receiver := { phase := .header, buffer := [b] } } else s)) ∧
    (∀ x, s.receiver = { phase := .header, buffer := [x] } →
      exec (.byteGathered b) s = .next { s with receiver := { phase := .header, buffer := [x, b] } }) ∧
    (∀ x hi, s.receiver = { phase := .header, buffer := [x, hi] } →
      if be16 hi b < 2 ∨ 1026 < be16 hi b then
        exec (.lengthDiscard b) s = .next { s with receiver := { phase := .hunt, buffer := [] } }
      else exec (.byteGathered b) s = .next { s with receiver := { phase := .body, buffer := [x, hi, b] } }) ∧
    (∀ x hi lo rest, s.receiver = { phase := .body, buffer := x :: hi :: lo :: rest } → rest.length + 1 < be16 hi lo + 2 →
      exec (.byteGathered b) s =
        .next { s with receiver := { phase := .body, buffer := (x :: hi :: lo :: rest) ++ [b] } }) ∧
    (s.receiver.phase ≠ .hunt →
      exec .interByteGapExpiry s = .next { s with receiver := { phase := .hunt, buffer := [] } })

/-- R2, R5, R6: what the last check byte of a frame that is not taken brings about: CHECK_FAILED for a wrong check; for a
right one REPLY_LIST_FULL_DROP where the list has no room, and otherwise BUSY while a request is served; the kind of the BUSY
reply to a frame of kind 0x80 or above is a free value (log 7). REPLY_SENT takes the oldest reply out of the list, and its
frame goes out on FL_TXD. -/
def Obligations.WholeFramesAndReplies : Prop :=
  (∀ (b kind tag : Byte) (payload check : List Byte) (s : State),
     s.inReset = none → s.Completes b kind tag payload check →
     (check ≠ rightCheck kind tag payload →
       exec (.checkFailed b) s = .next { s with receiver := { phase := .hunt, buffer := [] } }) ∧
     (check = rightCheck kind tag payload → (4 ≤ s.replies.length ∨ s.serving.isSome ∧ 3 ≤ s.replies.length) →
       exec (.replyListFullDrop b) s = .next { s with receiver := { phase := .hunt, buffer := [] } }) ∧
     (check = rightCheck kind tag payload → s.serving.isSome → s.replies.length < 3 →
       exec (.busy b) s = .next ({ s with receiver := { phase := .hunt, buffer := [] } }.replied
         (if kind.toNat < 0x80 then kind + 0x80 else Config.highReplyKind kind) tag [2]))) ∧
  (∀ (r : Reply) (rest : List Reply) (s : State), s.inReset = none → s.replies = r :: rest →
     exec .replySent s = .next { s with replies := rest } ∧
     s.linkBytes .replySent = [0xA5] ++ (u16 (r.payload.length + 2) ++ [r.kind, r.tag] ++ r.payload) ++
       rightCheck r.kind r.tag r.payload)

/-- R4: a well-framed frame whose kind and size fit becomes the request being served, with the fields it carries; one of a
kind that is no request's is answered UNKNOWN_REQUEST, and one of a payload size that does not fit its kind MALFORMED, and
neither of these is served. The kind of the UNKNOWN_REQUEST reply to a frame of kind 0x80 or above is a free value (log 7). -/
def Obligations.FramesAreExamined : Prop :=
  (∀ (i : Instr) (b kind : Byte) (s : State), s.Listening → i.wellFormed = true → i.requestKind = some kind →
     s.Completes b kind i.tag i.payload (rightCheck kind i.tag i.payload) →
     exec (.frameReceived b) s =
       .next { s with receiver := { phase := .hunt, buffer := [] }, serving := some { request := i, deferred := none } }) ∧
  (∀ (b kind tag : Byte) (payload : List Byte) (s : State), s.Listening →
     s.Completes b kind tag payload (rightCheck kind tag payload) →
     ((∀ i : Instr, i.requestKind ≠ some kind) →
       exec (.frameReceived b) s = .next ({ s with receiver := { phase := .hunt, buffer := [] } }.replied
         (if kind.toNat < 0x80 then kind + 0x80 else Config.highReplyKind kind) tag [4])) ∧
     (∀ n, fittingSize kind payload = some n → payload.length ≠ n →
       exec (.frameReceived b) s =
         .next ({ s with receiver := { phase := .hunt, buffer := [] } }.replied (kind + 0x80) tag [3])))

/-- R3, R4: reading the payload of a request gives the request back, with every operand at every value. -/
def Obligations.RequestRoundTrip : Prop :=
  ∀ (i : Instr) (kind : Byte), i.wellFormed = true → i.requestKind = some kind →
    examine kind i.tag i.payload = .request i

/-- R5, R6, R16: a request that arrives while another is served is answered BUSY, and one that finds no room in the reply
list is dropped (the request row of a frame stands for its arrival, log 10). The row of the request that its frame has made the
one being served serves it as the row of one that arrives in a listening state does. During a reset no command but FULL_RESET and
RESET_END has an effect: that the records stand still until RESET_END is the model's choice (log 20). -/
def Obligations.CommandsTurnedAway : Prop :=
  (∀ (i : Instr) (kind : Byte) (s : State), i.requestKind = some kind → s.inReset = none →
     (∀ sv, s.serving = some sv → (sv.request ≠ i ∨ sv.deferred.isSome) → s.replies.length < 3 →
       exec i s = .next (s.replied (kind + 0x80) i.tag [2])) ∧
     (∀ sv, s.serving = some sv → (sv.request ≠ i ∨ sv.deferred.isSome) → 3 ≤ s.replies.length → exec i s = .next s) ∧
     (s.serving = none → 4 ≤ s.replies.length → exec i s = .next s) ∧
     (s.serving = some { request := i, deferred := none } → s.replies.length < 4 →
       exec i s = exec i { s with serving := none })) ∧
  (∀ (c : Instr) (s : State), s.inReset.isSome → (∀ cause, c ≠ .fullReset cause) → c ≠ .resetEnd → exec c s = .next s)

/-! ### Reset and time -/

/-- R16: FULL_RESET begins a reset with its cause (a supply that rises records POWER_ON whatever RESET does), and RESET_END
leaves every record at its reset value with RESET_DONE alone in the event queue. That FULL_RESET clears the receiver, the
reply list, the serving flag and the trunks at once and the rest at RESET_END is the model's choice (log 20). During a reset
ATTN is high, FL_TXD idle and every trunk direction output at receive, and out of reset a direction output is at transmit
exactly while POLL_SENT sends a poll on its trunk (Section 2.1; polls are sent whole, log 18). -/
def Obligations.ResetBeginsAndEnds : Prop :=
  (∀ (cause : ResetCause) (s : State),
    exec (.fullReset cause) s = .next { s with
      inReset := some (if s.inReset = some .powerOn then .powerOn else cause)
      receiver := { phase := .hunt, buffer := [] }, serving := none, replies := []
      trunks := Vector.replicate 4 { position := none, outstanding := none, gap := none } }) ∧
  (∀ (cause : ResetCause) (s : State), s.inReset = some cause →
    exec .resetEnd s = .next { State.reset with
      pending := s.pending, resetCause := cause
      events := [{ kind := .resetDone, tick := 0, subject := 0, detail := [if cause = .powerOn then 0 else 1] }] }) ∧
  ∀ (c : Instr) (s : State),
    (s.inReset.isSome → s.attnLow = false ∧ s.linkBytes c = [] ∧ ∀ t, s.direction c t = .receive) ∧
    (s.inReset = none → ∀ t, s.direction c t = .transmit ↔
      c = .pollSent t ∧ (s.trunk t).outstanding = none ∧ (s.trunk t).gap = none ∧
        ∃ a, (s.station (placeOf t a)).state ≠ .absent ∧ ∀ q, (s.trunk t).position = some q → q < a)

/-- R16, R10, R13, R19, R41, R56, R62, R88, R171 and the Reset columns of Sections 2.2, 5.1 and 6.1: the state after a full
reset. That the cause is POWER_ON is the model's choice (log 2). -/
def Obligations.ResetValues : Prop :=
  let s := State.reset
  s.receiver = { phase := .hunt, buffer := [] } ∧ s.serving = none ∧ s.replies = [] ∧ s.committed = false ∧
  s.policy = { lookahead := 4, ageStep := 18000, setupTimeout := 9000, commandTimeout := 50, loadTimeout := 3000
               stopTimeout := 600, recoveryTime := 300, answerWindow := 8, roundGap := 10, openPass := false } ∧
  s.attention = { master := false, part := true, station := true, cell := true, tester := true, lot := true, release := true } ∧
  s.attnLow = false ∧ s.discards = 0 ∧ s.tick = 0 ∧ s.events.map (fun e => e.kind) = [.resetDone] ∧
  (∀ t, (s.trunk t).position = none ∧ (s.trunk t).outstanding = none) ∧
  (∀ p, (s.station p).state = .absent ∧ (s.station p).queue = [] ∧ (s.station p).misses = 0) ∧
  s.aliases = [] ∧ s.catalog = [] ∧ s.lots = [] ∧ s.dispatchQueue = [] ∧ s.releaseQueue = [] ∧
  s.nextStamp = 1 ∧ s.nextInsertion = 1 ∧ s.evalPending = false ∧
  (∀ c, (s.cell c).state = .empty ∧ (s.cell c).dock = none ∧ (s.cell c).work = none) ∧
  ∀ p, (s.tester p).opState = .idle ∧ (s.tester p).protectFloor = 8 ∧ (s.tester p).floorWritten = false ∧
    (s.tester p).selected = none ∧ ∀ k, ((s.tester p).slot k).state = .empty ∧ ((s.tester p).slot k).locked = false

/-- R12, R82, R119: TICK raises the counter and lets every recovery timer fall that stands above 0 while its handler's
alarm field is clear; it notes the age promotion the increment brings (`ageDue`, the model's own field, log 4). Every deadline
whose increment has come then expires in the same step, as its own row gives; the order of several is the model's choice
(log 11). Where none has come, TICK does nothing more. -/
def Obligations.TickAdvances : Prop :=
  ∀ s : State, s.inReset = none →
    ∃ t v, exec .tick s = .next v ∧ State.Runs expiryRows t v ∧ (t.NoneDue → v = t) ∧
      t = { s with tick := s.tick + 1, cells := t.cells, ageDue := t.ageDue } ∧
      (∀ c, (s.cell c).dock = none → t.cell c = s.cell c) ∧
      (∀ c d, (s.cell c).dock = some d →
        t.cell c =
          if d.recovery = 0 ∨ (s.station d.handler).alarm = true then s.cell c
          else { s.cell c with
            dock := some { d with recovery := d.recovery - 1 }
            recoveryDue := (s.cell c).recoveryDue || (d.recovery == 1 && (s.cell c).state == .idle) }) ∧
      (t.ageDue = true ↔ s.ageDue = true ∨ s.committed = true ∧ 1 ≤ s.policy.ageStep ∧
        ∃ n ∈ s.dispatchQueue, ∃ l, s.lot? n = some l ∧ ∃ k, 1 ≤ k ∧ k ≤ l.priority ∧
          elapsed (s.tick + 1) l.enqueueTick = k * s.policy.ageStep)

/-! ### Events, attention and policy -/

/-- R8: records leave the queue through FETCH EVENTS alone (and a full reset): every other command leaves the records that
stand in the queue as they were, and what it posts stands after them. -/
def Obligations.EventsJoinTheTail : Prop :=
  ∀ (c : Instr) (s t : State), (∀ tag, c ≠ .fetchEvents tag) → c ≠ .resetEnd → exec c s = .next t →
    ∃ more, t.events = s.events ++ more ∧ (s.events.length ≤ 64 → t.events.length ≤ 64)

/-- R9, R11: FETCH EVENTS returns the oldest records, up to 8, each with the codes of the event kinds table, with the discard
count and the number left, and sets the count to 0. SET ATTENTION writes the seven enables and answers them with the six pending classes. -/
def Obligations.EventsAndAttention : Prop :=
  (∀ (tag : Byte) (s : State), s.Listening →
     exec (.fetchEvents tag) s =
       .next ({ s with events := s.events.drop 8, discards := 0 }.replied 0x82 tag
         (([0] : List Byte) ++ u8 s.discards ++ u8 (s.events.length - 8) ++ u8 (min 8 s.events.length) ++
           (s.events.take 8).flatMap fun (e : Event) =>
             [(eventCodes e.kind).1, (eventCodes e.kind).2] ++ u32 e.tick.toNat ++ u32 e.subject.toNat ++
               u8 e.detail.length ++ e.detail))) ∧
  (∀ (tag : Byte) (f : Vector Byte 7) (s : State), s.Listening →
     exec (.setAttention tag f) s =
       .next ({ s with attention :=
           { master := decide (f[0] ≠ 0), part := decide (f[1] ≠ 0), station := decide (f[2] ≠ 0), cell := decide (f[3] ≠ 0)
             tester := decide (f[4] ≠ 0), lot := decide (f[5] ≠ 0), release := decide (f[6] ≠ 0) } }.replied 0x83 tag
         ([0] ++ (f.toList.map fun x => if x = 0 then 0 else 1) ++
           (([1, 2, 3, 4, 5, 6] : List Byte).map fun k =>
             if ∃ e ∈ s.events, (eventCodes e.kind).1 = k then 1 else 0))))

/-- R10: ATTN is low exactly while the part is out of reset, the master enable is set and a class whose enable is set has a
record in the queue. -/
def Obligations.AttnLevel : Prop :=
  ∀ s : State, s.attnLow = true ↔
    s.inReset = none ∧ s.attention.master = true ∧ ∃ e ∈ s.events,
      match e.kind.cls with
      | .part => s.attention.part = true
      | .station => s.attention.station = true
      | .cell => s.attention.cell = true
      | .tester => s.attention.tester = true
      | .lot => s.attention.lot = true
      | .release => s.attention.release = true

/-- R13: SET POLICY stores every field at the nearer end of its range and answers the ten fields as stored; once the policy
is committed it is refused WRITE_ONCE. -/
def Obligations.SetPolicyStoresNearestEnds : Prop :=
  ∀ (tag : Byte) (f : RawPolicy) (s : State), s.Listening →
    (s.committed = true → exec (.setPolicy tag f) s = .next (s.replied 0x84 tag [10])) ∧
    (s.committed = false → ∀ p : Policy,
      p = { lookahead := max 1 (min 8 f.lookahead.toNat), ageStep := f.ageStep.toNat
            setupTimeout := max 100 (min 36000 f.setupTimeout.toNat), commandTimeout := max 5 (min 600 f.commandTimeout.toNat)
            loadTimeout := max 100 (min 36000 f.loadTimeout.toNat), stopTimeout := max 10 (min 6000 f.stopTimeout.toNat)
            recoveryTime := min 6000 f.recoveryTime.toNat, answerWindow := max 1 (min 50 f.answerWindow.toNat)
            roundGap := min 100 f.roundGap.toNat, openPass := decide (f.openPass ≠ 0) } →
      exec (.setPolicy tag f) s = .next ({ s with policy := p }.replied 0x84 tag
        ([0] ++ u8 p.lookahead ++ u16 p.ageStep ++ u16 p.setupTimeout ++ u16 p.commandTimeout ++ u16 p.loadTimeout ++
          u16 p.stopTimeout ++ u16 p.recoveryTime ++ u8 p.answerWindow ++ u8 p.roundGap ++
          (if p.openPass = true then [1] else [0]))))

/-- R15, R17: COMMIT POLICY sets the committed flag, posts POLICY_COMMITTED and starts an evaluation, and a second one is
refused WRITE_ONCE; IDENTIFY and READ POLICY answer what they read and change nothing else. That the silicon revision takes one
byte is the model's choice (log 5). -/
def Obligations.PolicyIsCommittedAndRead : Prop :=
  (∀ (tag : Byte) (s : State), s.Listening →
     (s.committed = true → exec (.commitPolicy tag) s = .next (s.replied 0x85 tag [10])) ∧
     (s.committed = false → ∃ t, exec (.commitPolicy tag) s = .next (t.replied 0x85 tag [0]) ∧
       t = { s with committed := true, evalPending := true, events := t.events, discards := t.discards } ∧
       s.Posted t .policyCommitted 0 [])) ∧
  (∀ (tag : Byte) (s : State), s.Listening →
     exec (.identify tag) s = .next (s.replied 0x81 tag
       ([0] ++ [0x4F, 0x24] ++ [3] ++ [if s.resetCause = .powerOn then 0 else 1] ++ u32 s.tick.toNat ++
         [if s.committed = true then 1 else 0])) ∧
     exec (.readPolicy tag) s = .next (s.replied 0x86 tag
       ([0] ++ u8 s.policy.lookahead ++ u16 s.policy.ageStep ++ u16 s.policy.setupTimeout ++ u16 s.policy.commandTimeout ++
         u16 s.policy.loadTimeout ++ u16 s.policy.stopTimeout ++ u16 s.policy.recoveryTime ++ u8 s.policy.answerWindow ++
         u8 s.policy.roundGap ++ [if s.policy.openPass = true then 1 else 0] ++ [if s.committed = true then 1 else 0])))

/-- R15: a committed policy is changed by no command, and the committed flag is cleared by a full reset and by nothing
else. -/
def Obligations.CommittedPolicyStays : Prop :=
  ∀ (c : Instr) (s t : State), s.committed = true → c ≠ .resetEnd → exec c s = .next t →
    t.policy = s.policy ∧ t.committed = true

/-! ### Trunks and stations (Chapter 2) -/

/-- R19, R20, R30: POLL_SENT polls the lowest enrolled address above the poll position. The poll carries the command at the
head of the queue of an ONLINE place with nothing in flight and no late end awaited, which is then in flight, and otherwise
no command; the bytes of a command are those of the tables of Sections 5.2 and 6.2, and its deadline has the duration of R30 for
its kind. ROUND_GAP_EXPIRY ends the pause after a round. -/
def Obligations.PollsGoInRounds : Prop :=
  ∀ (t : TrunkNo) (s : State), s.inReset = none →
    (∀ g, (s.trunk t).gap = some g → exec (.roundGapExpiry t) s = .next (s.setTrunk t { s.trunk t with gap := none })) ∧
    ∀ (a : AddrIx) (st : Station), (s.trunk t).outstanding = none → (s.trunk t).gap = none → s.station (placeOf t a) = st →
      st.state ≠ .absent → (∀ q, (s.trunk t).position = some q → q < a) →
      (∀ b, b < a → (∀ q, (s.trunk t).position = some q → q < b) → (s.station (placeOf t b)).state = .absent) →
      (∀ frame, frame = pollBytes (a.val + 1) st.freshAck [] →
        (st.state ≠ .online ∨ st.inFlight ≠ none ∨ st.lateEnd ≠ none ∨ st.queue = []) →
        exec (.pollSent t) s = .next (s.setTrunk t
          { position := some a, gap := none
            outstanding := some { place := placeOf t a, windowMs := s.policy.answerWindow, frame := frame
                                  abandoned := false } })) ∧
      ∀ cmd rest frame, frame = pollBytes (a.val + 1) st.freshAck (commandLayout cmd) →
        st.state = .online → st.inFlight = none → st.lateEnd = none → st.queue = cmd :: rest →
        exec (.pollSent t) s = .next ((s.setStation (placeOf t a)
            { st with
              queue := rest
              inFlight := some { command := cmd, sentAt := s.tick
                                 deadline := { start := s.tick, span := commandTicks s.policy cmd } } }).setTrunk t
          { position := some a, gap := none
            outstanding := some { place := placeOf t a, windowMs := s.policy.answerWindow, frame := frame
                                  abandoned := false } })

/-- R20, R23, R24, R25, R19, R94, R115: POLL_MISS ends the poll. The miss raises the miss count of an ONLINE place, and changes nothing
in a JOINING or LOST one; the third takes the place to LOST with no command left, STATION_LOST being posted. A trunk with no
enrolled address above the poll position begins its pause. The loss of a docked cell's station, with no command but a handler's own
to fail, makes the cell FAULTED: from IDLE; by a cancellation with HANDLER_LOST or TESTER_LOST; by a partial close, after which the
loss of the tester of a RUNNING cell offers STOP. While a poll is abandoned (its place has left the enrolled states, log 16)
ANSWER_TAKEN changes nothing, and POLL_MISS ends the poll alone. -/
def Obligations.MissesAreCounted : Prop :=
  (∀ (t : TrunkNo) (a q : AddrIx) (o : PollOut) (st : Station) (s : State), s.inReset = none →
    (s.trunk t).outstanding = some o → o.place = placeOf t a → o.abandoned = false → (s.trunk t).position = some q →
    s.station (placeOf t a) = st → st.state ≠ .absent →
    ∃ u : State, exec (.pollMiss t) s = .next u ∧
      u.trunk t =
        (if ∃ b, q < b ∧ (s.station (placeOf t b)).state ≠ .absent then
          { position := some q, outstanding := none, gap := (s.trunk t).gap }
        else { position := none, outstanding := none, gap := some s.policy.roundGap }) ∧
      (∀ t', t' ≠ t → u.trunk t' = s.trunk t') ∧
      (st.state ≠ .online → u = { s with trunks := u.trunks }) ∧
      (st.state = .online → st.misses < 2 →
        u = { s.setStation (placeOf t a) { st with misses := st.misses + 1 } with trunks := u.trunks }) ∧
      (st.state = .online → st.misses = 2 →
        u.station (placeOf t a) =
          { st with state := .lost, misses := 3, freshAck := false, queue := [], inFlight := none, lateEnd := none } ∧
        (s.events.length < 64 → ∃ more, u.events = s.events ++
          [{ kind := .stationLost, tick := s.tick, subject := BitVec.ofNat 32 (placeOf t a).val
             detail := u8 (st.inFlight.toList.length + st.queue.length) }] ++ more))) ∧
  (∀ (t : TrunkNo) (a : AddrIx) (o : PollOut) (st : Station) (p : Place) (c : CellNo) (d : Dock) (y : Cell) (s : State)
      (fault cause close : Nat), s.inReset = none →
    (s.trunk t).outstanding = some o → o.place = placeOf t a → o.abandoned = false → p = placeOf t a →
    s.station p = st → st.state = .online → st.misses = 2 → s.HeldBy p c d → s.cell c = y →
    (d.handler = p ∧ st.kind = some .handler ∧ (∀ f, st.inFlight = some f → f.command.forHandler = true) ∧
        (∀ q ∈ st.queue, q.forHandler = true) ∧ fault = 2 ∧ cause = 8 ∧ close = 3 ∨
      d.handler ≠ p ∧ st.kind = some .tester ∧ st.inFlight = none ∧ st.queue = [] ∧ (s.tester p).Unoccupied ∧ fault = 3 ∧
        cause = 10 ∧ close = 4) →
    ∃ v u : State, exec (.pollMiss t) s = .next u ∧
      v = { s.setStation p { st with
          state := .lost, misses := 3, freshAck := false, queue := [], inFlight := none, lateEnd := none } with
        trunks := u.trunks, events := v.events, discards := v.discards } ∧ s.PollEnds u t ∧
      s.Posted v .stationLost (BitVec.ofNat 32 p.val) (u8 (st.inFlight.toList.length + st.queue.length)) ∧
      (y.state = .idle →
        u = { v with cells := s.cells.set c { y with state := .faulted }, events := u.events, discards := u.discards } ∧
        v.Posted u .cellFaulted (BitVec.ofNat 32 c.val) (u8 fault ++ [0, 0, 0, 0])) ∧
      (y.state = .faulted → u = v) ∧
      (∀ w l, y.state = .setup ∨ y.state = .preparing → y.work = some w → s.HasLot w.lot l →
        v.CancelledByLoss u c d w l cause fault) ∧
      ∀ w l r, y.state = .running ∨ y.state = .stopping → y.work = some w → s.HasLot w.lot l → l.current = some r →
        w.lot ∉ s.dispatchQueue →
        ∃ x z : State, x = { v with events := x.events, discards := x.discards } ∧
          v.Posted x .cellFaulted (BitVec.ofNat 32 c.val) (u8 fault ++ u32 w.lot.toNat) ∧
          x.CutOff z c y w l r .faulted close ∧
          (d.handler = p ∨ y.state = .stopping → u = z) ∧
          ∀ n, d.handler ≠ p → y.state = .running → y.insertion = some n →
            u = z.setStation d.handler ((s.station d.handler).withStop n)) ∧
  ∀ (t : TrunkNo) (o : PollOut) (s : State), s.inReset = none → (s.trunk t).outstanding = some o → o.abandoned = true →
    (∀ bytes, exec (.answerTaken t bytes) s = .next s) ∧
    ∃ u : State, exec (.pollMiss t) s = .next u ∧ u = { s with trunks := u.trunks } ∧ s.PollEnds u t

/-- R18, R19, R21, R23: an answer of a JOINING place with an IDENTITY of the declared kind takes the place ONLINE; one of another
kind frees the place, whose record is then as at reset; an answer without a report leaves it JOINING. The flags of the answer are
taken where the place keeps its record. The poll ends, and its trunk settles: at the end of a round its position goes and the pause
begins, and without an enrolled place neither stands. Where no docked cell holds the place, nothing else changes but the event. -/
def Obligations.JoinsAreDecided : Prop :=
  ∀ (t : TrunkNo) (a : AddrIx) (o : PollOut) (st : Station) (k : StationKind) (status m1 m0 f1 f0 x : Byte) (s : State),
    s.inReset = none → (s.trunk t).outstanding = some o → o.place = placeOf t a → o.abandoned = false →
    s.station (placeOf t a) = st → st.state = .joining → st.kind = some k → s.isDocked (placeOf t a) = false →
    (∃ u : State, exec (.answerTaken t (answerBytes (a.val + 1) status [1, BitVec.ofNat 8 k.code, m1, m0, f1, f0])) s =
        .next u ∧
      u = { s.setStation (placeOf t a)
        { st with
          state := .online, misses := 0, model := some (be16 m1 m0), firmware := some (be16 f1 f0)
          freshAck := status.getLsbD 0, alarm := status.getLsbD 1 } with
        trunks := u.trunks, events := u.events, discards := u.discards } ∧
      s.Posted u .stationOnline (BitVec.ofNat 32 (placeOf t a).val) (u8 k.code ++ [0]) ∧ s.PollEnds u t) ∧
    (x.toNat ≠ k.code →
      ∃ u : State, exec (.answerTaken t (answerBytes (a.val + 1) status [1, x, m1, m0, f1, f0])) s = .next u ∧
        u = { s.setStation (placeOf t a) Station.reset with
          trunks := u.trunks, events := u.events, discards := u.discards } ∧
        s.Posted u .enrollFailed (BitVec.ofNat 32 (placeOf t a).val) (u8 k.code ++ [x]) ∧ s.PollEnds u t) ∧
    ∃ u : State, exec (.answerTaken t (answerBytes (a.val + 1) status [])) s = .next u ∧
      u = { s.setStation (placeOf t a) { st with freshAck := status.getLsbD 0, alarm := status.getLsbD 1 } with
        trunks := u.trunks } ∧ s.PollEnds u t

/-- R21, R24, R26, R114: an answer without a report of an ONLINE place with nothing in flight and no late end awaited, which no
docked cell holds, sets the miss count to 0 and writes its flags; a fresh-start flag that the place has not acknowledged is a
station restart, which posts STATION_RESTART and, at an idle tester, makes the VERIFIED slots STALE. R25: the first answer of a
LOST place brings it back ONLINE with STATION_ONLINE, and the restart of a handler follows where it is one. R31: a command in
flight stays there while an answer has neither end flag; a STOP that ends leaves the flight and does nothing more. R85, R89:
the done end of the current SET SETPOINT writes the commanded setpoint and setpoint done, and that of an earlier one the commanded
setpoint alone, after which a preparation that had setpoint done at another setpoint commands it again; the done end of the current
START INSERTION starts the segment and posts INSERTION_STARTED, and that of another number has its STOP offered (R92). The failed end
of a SET SETPOINT makes the commanded setpoint absent and cancels with SETPOINT_FAILED, or is commanded again, and that of the
current START INSERTION cancels with START_FAILED. R19: the poll ends and its trunk settles. R94: a docked place that returns or joins brings its FAULTED cell to
IDLE, with its recovery timer loaded and CELL_IDLE, where both places are then ONLINE (a joined place of another kind than the dock's
is taken as any, log 23). R95, R114: the restart of a docked handler makes the commanded setpoint absent and cancels with
HANDLER_RESTART or closes partial; that of a docked tester makes its slots STALE and cancels with TESTER_RESTART, or stops a RUNNING
cell with the finding PROGRAM_MISMATCH. -/
def Obligations.OnlineAnswersAreTaken : Prop :=
  (∀ (t : TrunkNo) (a : AddrIx) (o : PollOut) (st : Station) (k : StationKind) (status : Byte) (s : State),
    s.inReset = none → (s.trunk t).outstanding = some o → o.place = placeOf t a → o.abandoned = false →
    s.station (placeOf t a) = st → st.state = .online → st.inFlight = none → st.lateEnd = none → st.kind = some k →
    s.isDocked (placeOf t a) = false →
    ∃ u : State, exec (.answerTaken t (answerBytes (a.val + 1) status [])) s = .next u ∧ s.PollEnds u t ∧
      u = { s.setStation (placeOf t a)
        { st with misses := 0, freshAck := status.getLsbD 0, alarm := status.getLsbD 1 } with
        trunks := u.trunks, events := u.events, discards := u.discards, testers := u.testers
        evalPending := u.evalPending } ∧
      (status.getLsbD 0 = false ∨ st.freshAck = true →
        u.events = s.events ∧ u.discards = s.discards ∧ u.testers = s.testers ∧ u.evalPending = s.evalPending) ∧
      (status.getLsbD 0 = true → st.freshAck = false →
        (k = .handler →
          s.Posted u .stationRestart (BitVec.ofNat 32 (placeOf t a).val) [1, 0] ∧ u.testers = s.testers ∧
            u.evalPending = s.evalPending) ∧
        (k = .tester → (s.tester (placeOf t a)).opState = .idle → (s.tester (placeOf t a)).readiness = none →
          s.Posted u .stationRestart (BitVec.ofNat 32 (placeOf t a).val) [2, 0] ∧
            (∀ q, q ≠ placeOf t a → u.tester q = s.tester q) ∧ (u.tester (placeOf t a)).selected = none ∧
            ∀ j, (u.tester (placeOf t a)).slot j = { (s.tester (placeOf t a)).slot j with
              state := if ((s.tester (placeOf t a)).slot j).state = .verified then .stale
                else ((s.tester (placeOf t a)).slot j).state }))) ∧
  (∀ (t : TrunkNo) (a : AddrIx) (st : Station) (k : StationKind) (status : Byte) (s : State),
    s.Polled t a → s.station (placeOf t a) = st → st.state = .lost → st.inFlight = none → st.lateEnd = none →
    st.kind = some k → s.isDocked (placeOf t a) = false →
    (status.getLsbD 0 = false ∨ st.freshAck = true →
      ∃ u : State, s.Answers t a status [] u ∧
        u = { s.setStation (placeOf t a)
          { st with state := .online, misses := 0, freshAck := status.getLsbD 0, alarm := status.getLsbD 1 } with
          events := u.events, discards := u.discards } ∧
        s.Posted u .stationOnline (BitVec.ofNat 32 (placeOf t a).val) (u8 k.code ++ [1])) ∧
    (status.getLsbD 0 = true → st.freshAck = false → k = .handler →
      ∃ u : State, s.Answers t a status [] u ∧
        u = { s.setStation (placeOf t a)
          { st with state := .online, misses := 0, freshAck := true, alarm := status.getLsbD 1 } with
          events := u.events, discards := u.discards } ∧
        (s.events.length + 2 ≤ 64 → u.events = s.events ++
          [{ kind := .stationOnline, tick := s.tick, subject := BitVec.ofNat 32 (placeOf t a).val, detail := [1, 1] },
           { kind := .stationRestart, tick := s.tick, subject := BitVec.ofNat 32 (placeOf t a).val, detail := [1, 0] }]))) ∧
  (∀ (t : TrunkNo) (a : AddrIx) (st : Station) (f : InFlight) (s : State),
    s.Polled t a → s.station (placeOf t a) = st → st.state = .online → st.inFlight = some f →
    s.Answers t a 0 [] (s.setStation (placeOf t a) st.heard) ∧
    (∀ n, f.command = .stopSegment n → ∀ status ∈ ([4, 8, 12] : List Byte),
      s.Answers t a status [] (s.setStation (placeOf t a) { st.heard with inFlight := none })) ∧
    (∀ heard, heard = s.setStation (placeOf t a) { st.heard with inFlight := none } →
      (∀ ref z, f.command = .setSetpoint ref z → ∃ u : State, s.Answers t a 8 [] u ∧ heard.SetpointFails u (placeOf t a) ref) ∧
      ∀ n lot step quantity, f.command = .startInsertion n lot step quantity →
        (∃ u : State, s.Answers t a 8 [] u ∧ heard.StartFails u (placeOf t a) n false) ∧
        ((∀ c d, (s.cell c).dock = some d → d.handler = placeOf t a →
            (s.cell c).state ≠ .preparing ∨ (s.cell c).insertion ≠ some n) →
          s.Answers t a 4 [] (heard.setStation (placeOf t a) ((heard.station (placeOf t a)).withStop n)))) ∧
    ∀ (c : CellNo) (d : Dock) (x : Cell), s.HandlerOf (placeOf t a) c d → s.cell c = x → x.state = .preparing →
      (∀ ref z q, f.command = .setSetpoint ref z → x.prep = some q → q.setpointCommand = some ref → q.soakStart = none →
        s.Answers t a 4 [] { s.setStation (placeOf t a) { st.heard with inFlight := none } with
          cells := s.cells.set c { x with commanded := some z, prep := some { q with setpointDone := true } } }) ∧
      (∀ ref z q w l step v, f.command = .setSetpoint ref z → x.prep = some q → q.setpointCommand ≠ some ref →
        x.work = some w → s.HasLot w.lot l → l.stepAt w.step = some step →
        v = { s.setStation (placeOf t a) { st.heard with inFlight := none } with
          cells := s.cells.set c { x with commanded := some z } } →
        (q.setpointDone = false ∨ x.insertion ≠ none ∨ z = step.setpoint → s.Answers t a 4 [] v) ∧
        (q.setpointDone = true → x.insertion = none → z ≠ step.setpoint →
          ∃ u : State, s.Answers t a 4 [] u ∧ v.CommandsAgain u c d step)) ∧
      ∀ n lot step quantity w l r, f.command = .startInsertion n lot step quantity → x.insertion = some n →
        x.work = some w → s.HasLot w.lot l → l.current = some r →
        ∃ (u : State) (l' : Lot), s.Answers t a 4 [] u ∧
          u = { s.setStation (placeOf t a) { st.heard with inFlight := none } with
            cells := s.cells.set c { x with state := .running, prep := none }
            lots := u.lots, events := u.events, discards := u.discards } ∧
          (∀ m, m ≠ w.lot → u.lot? m = s.lot? m) ∧ u.lot? w.lot = some l' ∧
          l' = { l with state := .running, records := l'.records } ∧
          l'.records = l.records.set (l.currentStep - 1)
            { r with outcome := .running, number := some n, lastSeq := 255, segments := min 255 (r.segments + 1) } ∧
          s.Posted u .insertionStarted w.lot
            (u8 c.val ++ u8 l.currentStep ++ u16 n ++ u8 (min 255 (r.segments + 1)) ++ u24 quantity)) ∧
  (∀ (t : TrunkNo) (a : AddrIx) (p : Place) (st st' : Station) (k : StationKind) (c : CellNo) (d : Dock) (y : Cell)
      (mark m1 m0 f1 f0 : Byte) (report : List Byte) (s : State),
    s.Polled t a → p = placeOf t a → s.station p = st → st.kind = some k → st.inFlight = none → st.lateEnd = none →
    s.HeldBy p c d → s.cell c = y →
    (st.state = .lost ∧ report = [] ∧ mark = 1 ∧ st' = { st.heard with state := .online } ∨
      st.state = .joining ∧ report = [1, BitVec.ofNat 8 k.code, m1, m0, f1, f0] ∧ mark = 0 ∧
        st' = { st.heard with state := .online, model := some (be16 m1 m0), firmware := some (be16 f1 f0) }) →
    ∃ v u : State, s.Answers t a 0 report u ∧
      v = { s.setStation p st' with
        evalPending := s.evalPending || s.committed, events := v.events, discards := v.discards } ∧
      s.Posted v .stationOnline (BitVec.ofNat 32 p.val) (u8 k.code ++ [mark]) ∧
      if y.state = .faulted ∧ (v.station d.handler).state = .online ∧ (v.station d.tester).state = .online then
        u = { v with
          cells := s.cells.set c { y with state := .idle, dock := some { d with recovery := s.policy.recoveryTime } }
          events := u.events, discards := u.discards } ∧
        v.Posted u .cellIdle (BitVec.ofNat 32 c.val) ([1] ++ u16 s.policy.recoveryTime)
      else u = v) ∧
  ∀ (t : TrunkNo) (a : AddrIx) (p : Place) (st : Station) (c : CellNo) (d : Dock) (y : Cell) (s : State),
    s.Polled t a → p = placeOf t a → s.station p = st → st.state = .online → st.freshAck = false → s.HeldBy p c d →
    s.cell c = y →
    (st.kind = some .handler → d.handler = p → (∀ f, st.inFlight = some f → f.command.forHandler = true) →
      ∃ v u : State, s.Answers t a 1 [] u ∧
        v = { s.setStation p { st.heard with freshAck := true, inFlight := none, lateEnd := none } with
          cells := s.cells.set c { y with commanded := none }, events := v.events, discards := v.discards } ∧
        s.Posted v .stationRestart (BitVec.ofNat 32 p.val) ([1] ++ u8 st.inFlight.toList.length) ∧
        (y.state = .idle ∨ y.state = .faulted → u = v) ∧
        (∀ w l, y.state = .setup ∨ y.state = .preparing → y.work = some w → s.HasLot w.lot l → v.Cancelled u c d w l 9) ∧
        ∀ w l r, y.state = .running ∨ y.state = .stopping → y.work = some w → s.HasLot w.lot l → l.current = some r →
          w.lot ∉ s.dispatchQueue → v.CutOff u c { y with commanded := none } w l r .idle 5) ∧
    (st.kind = some .tester → d.handler ≠ p → st.inFlight = none → (s.tester p).Unoccupied →
      ∃ v u : State, s.Answers t a 1 [] u ∧
        v = { s.setStation p { st.heard with freshAck := true, lateEnd := none } with
          testers := s.testers.set p { s.tester p with selected := none, slots := (v.tester p).slots }
          events := v.events, discards := v.discards } ∧
        (∀ j, (v.tester p).slot j = { (s.tester p).slot j with
          state := if ((s.tester p).slot j).state = .verified then .stale else ((s.tester p).slot j).state }) ∧
        s.Posted v .stationRestart (BitVec.ofNat 32 p.val) [2, 0] ∧
        (y.state = .idle ∨ y.state = .faulted ∨ y.state = .stopping → u = v) ∧
        (∀ w l, y.state = .setup ∨ y.state = .preparing → y.work = some w → s.HasLot w.lot l → v.Cancelled u c d w l 11) ∧
        ∀ n w l r, y.state = .running → y.insertion = some n → y.work = some w → s.HasLot w.lot l → l.current = some r →
          l.state = .running → l.cell = some c →
          ∃ (l' : Lot) (r' : Insertion),
            u = { v.setStation d.handler ((s.station d.handler).withStop n) with
              cells := s.cells.set c { y with
                state := .stopping, phaseDeadline := some { start := s.tick, span := s.policy.stopTimeout } }
              lots := u.lots, events := u.events, discards := u.discards } ∧
            (∀ m, m ≠ w.lot → u.lot? m = s.lot? m) ∧ u.lot? w.lot = some l' ∧
            l' = { l with records := l'.records, holds := l'.holds } ∧ l'.current = some r' ∧
            r' = { r with findings := r'.findings } ∧ (∃ f ∈ r'.findings, f.cause = .programMismatch) ∧
            (Cause.programMismatch ∉ r.waivers → ∃ h ∈ l'.holds, h.cause = .programMismatch))

/-- R32, R39, R85, R89, R99, R110, R112: COMMAND_DEADLINE_EXPIRY takes the command out of flight and begins the wait for a late end, and
the command ends TIMEOUT at its issuer: a STOP changes nothing more; a SET SETPOINT makes the commanded setpoint absent and cancels
with SETPOINT_FAILED, or is commanded again; a START INSERTION cancels with START_FAILED and has its STOP offered; a LOAD, VERIFY,
ERASE or SELECT ends its operation with the outcome TIMEOUT; the STATION PASS that waits for a pass-through command is answered
NO_RESPONSE. LATE_END_WAIT_EXPIRY ends the wait. TICK takes each at its own increment (TickAdvances); that
either row may also stand in the queue by itself, where its deadline stands due, is the model's choice (log 11). -/
def Obligations.DeadlinesExpire : Prop :=
  ∀ (p : Place) (s : State), s.inReset = none →
    (∀ f, (s.station p).inFlight = some f → f.deadline.span ≤ elapsed s.tick f.deadline.start →
      ∃ u : State, exec (.commandDeadlineExpiry p) s = .next u ∧
        (u.station p).inFlight = none ∧ (u.station p).state = (s.station p).state ∧
        (u.station p).lateEnd = some { start := s.tick, span := s.policy.commandTimeout } ∧
        ∀ v : State, v = s.setStation p { s.station p with
            inFlight := none, lateEnd := some { start := s.tick, span := s.policy.commandTimeout } } →
          (∀ n, f.command = .stopSegment n → u = v) ∧
          (∀ ref z, f.command = .setSetpoint ref z → v.SetpointFails u p ref) ∧
          (∀ n lot step quantity, f.command = .startInsertion n lot step quantity → v.StartFails u p n true) ∧
          (∀ op k id rev, f.command = .slotCommand op k id rev → v.SlotCommandTimesOut u p op k) ∧
          ∀ bytes, f.command = .pass bytes →
            (∀ tag al trunk address command,
              s.serving = some { request := .stationPass tag al trunk address command, deferred := some p } →
              u = { v with serving := none }.replied 0x96 tag [18]) ∧
            ((∀ sv, s.serving = some sv → sv.deferred ≠ some p) → u = v)) ∧
    (∀ d, (s.station p).lateEnd = some d → d.span ≤ elapsed s.tick d.start →
      exec (.lateEndWaitExpiry p) s = .next (s.setStation p { s.station p with lateEnd := none }))

/-- R22: ENROLL STATION. -/
def Obligations.EnrollStation : Prop :=
  ∀ (tag trunk address kind : Byte) (s : State), s.Listening →
    ((4 ≤ trunk.toNat ∨ address.toNat < 1 ∨ 8 < address.toNat ∨ (kind ≠ 1 ∧ kind ≠ 2)) →
      exec (.enrollStation tag trunk address kind) s = .next (s.replied 0x90 tag [5])) ∧
    ∀ (t : TrunkNo) (a : AddrIx) (k : StationKind),
      trunk.toNat = t.val → address.toNat = a.val + 1 → kind.toNat = k.code →
      ((s.station (placeOf t a)).state ≠ .absent →
        exec (.enrollStation tag trunk address kind) s = .next (s.replied 0x90 tag [7])) ∧
      ((s.station (placeOf t a)).state = .absent →
        exec (.enrollStation tag trunk address kind) s =
          .next ((s.setStation (placeOf t a)
            { state := .joining, kind := some k, misses := 0, freshAck := false, alarm := false, model := none
              firmware := none, queue := [], inFlight := none, lateEnd := none }).replied 0x90 tag
            [0, BitVec.ofNat 8 (t.val * 8 + a.val)]))

/-- R19, R27, R97, R98, R115: RETIRE STATION clears the record of a place that no docked cell holds and whose tester, if it is one, is
idle. Of a tester, the selected slot goes and the VERIFIED slots become STALE; its programs, checks, locks, floor, flags and all
else stay, and so does the whole tester record of a HANDLER's place, but that a command of the Slot Manager which stood queued or
in flight at the place (at a HANDLER's place only by log 23) stands outstanding no more. An outstanding poll of the place is
abandoned (the mark is the model's own, log 16), and the place's trunk settles. -/
def Obligations.RetireStation : Prop :=
  ∀ (tag al : Byte) (p : Place) (s : State), s.Listening → s.SingleAlias al p →
    ((s.station p).state = .absent → exec (.retireStation tag al) s = .next (s.replied 0x91 tag [31])) ∧
    ((s.station p).state ≠ .absent →
      (s.isDocked p = true ∨ (s.station p).kind = some .tester ∧ (s.tester p).opState ≠ .idle) →
      exec (.retireStation tag al) s = .next (s.replied 0x91 tag [12])) ∧
    ((s.station p).state ≠ .absent → s.isDocked p = false →
      ((s.station p).kind = some .tester → (s.tester p).opState = .idle) →
      ∃ u : State, exec (.retireStation tag al) s = .next (u.replied 0x91 tag [0]) ∧
        u = { s.setStation p Station.reset with trunks := u.trunks, testers := u.testers } ∧
        (∀ t, t ≠ trunkOf p → u.trunk t = s.trunk t) ∧ (∀ q, q ≠ p → u.tester q = s.tester q) ∧
        u.Settles (trunkOf p) { s.trunk (trunkOf p) with
          outstanding := (s.trunk (trunkOf p)).outstanding.map fun o =>
            { o with abandoned := o.abandoned || o.place == p } } (u.trunk (trunkOf p)) ∧
        (∀ x : Tester,
          x = (if (s.station p).kind = some .tester then { s.tester p with selected := none, slots := (u.tester p).slots }
            else s.tester p) →
          u.tester p =
            if (((s.station p).inFlight.toList.map fun f => f.command) ++ (s.station p).queue).any Command.forSlots then
              { x with outstanding := none, next := none }
            else x) ∧
        ((s.station p).kind = some .tester → ∀ k, (u.tester p).slot k = { (s.tester p).slot k with
          state := if ((s.tester p).slot k).state = .verified then .stale else ((s.tester p).slot k).state }))

/-- R35, R36: DEFINE ALIAS writes one entry of the table and DELETE ALIAS frees one; an entry that a docked cell names keeps
naming the cell's place, and a new number needs a free entry. A number of 0 or 255, a count outside 1..4, a place outside 0..31
or named twice, or an answering member that is not one of the places is refused RANGE. -/
def Obligations.AliasesAreDefined : Prop :=
  (∀ (tag : Byte) (e : AliasEntry) (s : State), s.Listening → e.number ≠ 0 → e.number ≠ 255 →
    (1 ≤ e.members.length → e.members.length ≤ 4 → e.members.Nodup → e.answering ∈ e.members →
      ∀ i, i = .defineAlias tag e.number (BitVec.ofNat 8 e.answering.val) (e.members.map fun p => BitVec.ofNat 8 p.val) →
      ((s.alias? e.number).isSome →
        (∃ c d, (s.cell c).dock = some d ∧
          (d.handlerAlias = e.number ∧ e.members ≠ [d.handler] ∨ d.testerAlias = e.number ∧ e.members ≠ [d.tester])) →
        exec i s = .next (s.replied 0x93 tag [12])) ∧
      (s.alias? e.number = none → 24 ≤ s.aliases.length → exec i s = .next (s.replied 0x93 tag [8])) ∧
      ((∀ c d, (s.cell c).dock = some d →
          (d.handlerAlias = e.number → e.members = [d.handler]) ∧ (d.testerAlias = e.number → e.members = [d.tester])) →
        ((s.alias? e.number).isSome ∨ s.aliases.length < 24) →
        ∃ u : State, exec i s = .next (u.replied 0x93 tag [0]) ∧ u = { s with aliases := u.aliases } ∧
          ∀ n, u.alias? n = if n = e.number then some e else s.alias? n)) ∧
    ((s.alias? e.number).isSome →
      ((∃ c d, (s.cell c).dock = some d ∧ (d.handlerAlias = e.number ∨ d.testerAlias = e.number)) →
        exec (.deleteAlias tag e.number) s = .next (s.replied 0x94 tag [12])) ∧
      ((∀ c d, (s.cell c).dock = some d → d.handlerAlias ≠ e.number ∧ d.testerAlias ≠ e.number) →
        ∃ u : State, exec (.deleteAlias tag e.number) s = .next (u.replied 0x94 tag [0]) ∧
          u = { s with aliases := u.aliases } ∧
          ∀ n, u.alias? n = if n = e.number then none else s.alias? n))) ∧
  ∀ (tag al answering : Byte) (places : List Byte) (s : State), s.Listening →
    (al = 0 ∨ al = 255 ∨ places.length < 1 ∨ 4 < places.length ∨ (∃ x ∈ places, 32 ≤ x.toNat) ∨ ¬ places.Nodup ∨
      answering ∉ places) →
    exec (.defineAlias tag al answering places) s = .next (s.replied 0x93 tag [5])

/-- R37, R28: READ ALIAS answers the members and their station states, or for number 0 the numbers in use, and READ STATION
each member's record, an ABSENT member's as at reset; neither changes anything else. The codes of a command's category are a free
value (log 6); the place of a presence field, and that the station states stand after all the places, are the model's choice (log 5). -/
def Obligations.AliasesAndStationsAreRead : Prop :=
  ∀ (tag : Byte) (s : State), s.Listening →
    exec (.readAlias tag 0) s =
      .next (s.replied 0x95 tag ([0] ++ u8 s.aliases.length ++ s.aliases.map fun e => e.number)) ∧
    exec (.readAlias tag 255) s = .next (s.replied 0x95 tag [5]) ∧
    ∀ al e, s.HasAlias al e →
      exec (.readAlias tag al) s =
        .next (s.replied 0x95 tag ([0] ++ u8 e.members.length ++ u8 e.answering.val ++
          (e.members.map fun p => BitVec.ofNat 8 p.val) ++
          (e.members.flatMap fun p => u8 (s.station p).state.code))) ∧
      exec (.readStation tag al) s =
        .next (s.replied 0x92 tag ([0] ++ u8 e.members.length ++ e.members.flatMap fun p =>
          let st := s.station p
          u8 p.val ++
            match st.state with
            | .absent => List.replicate 18 0
            | state => u8 (match state with | .absent => 0 | .joining => 1 | .online => 2 | .lost => 3) ++
                u8 (match st.kind with | none => 0 | some .handler => 1 | some .tester => 2) ++
                flag st.model.isSome ++ u16 (st.model.getD 0) ++ u16 (st.firmware.getD 0) ++ u8 st.misses ++
                flag st.freshAck ++ flag st.alarm ++ u8 st.queue.length ++
                (st.queue.map fun q => Config.categoryCode q.category.index) ++
                (match st.inFlight with
                  | some f => [1, Config.categoryCode f.command.category.index] ++ u32 f.sentAt.toNat
                  | none => List.replicate 6 0) ++
                flag st.lateEnd.isSome))

/-- R38: STATION PASS offers its bytes to every member, at the tail of each queue, with its reply deferred, where every
member is ONLINE with no pass-through command queued or in flight; the first member that is not so refuses the whole. The
members are those of the named entry or, for a raw pass under OPEN_PASS, the one place that trunk and address name; a
raw pass that names no place is refused RANGE. R39: the end of the answering member's command gives the deferred reply, OK with
the flags and the body of a PASS RESULT for a done end (log 15), NO_RESPONSE for a failed one. -/
def Obligations.StationPass : Prop :=
  (∀ (tag al trunk address : Byte) (command : List Byte) (s : State), s.Listening →
    (command.length < 1 ∨ 48 < command.length →
      exec (.stationPass tag al trunk address command) s = .next (s.replied 0x96 tag [5])) ∧
    (1 ≤ command.length → command.length ≤ 48 →
      (al = 0 → s.policy.openPass = false →
        exec (.stationPass tag al trunk address command) s = .next (s.replied 0x96 tag [6])) ∧
      (al = 255 ∨ al = 0 ∧ s.policy.openPass = true ∧ (4 ≤ trunk.toNat ∨ address.toNat < 1 ∨ 8 < address.toNat) →
        exec (.stationPass tag al trunk address command) s = .next (s.replied 0x96 tag [5])) ∧
      (al ≠ 0 → al ≠ 255 → s.alias? al = none →
        exec (.stationPass tag al trunk address command) s = .next (s.replied 0x96 tag [6])) ∧
      ∀ (members : List Place) (answering : Place),
        ((∃ e, s.HasAlias al e ∧ e.members = members ∧ e.answering = answering) ∨
          (al = 0 ∧ s.policy.openPass = true ∧ ∃ t a, trunk.toNat = t.val ∧ address.toNat = a.val + 1 ∧
            members = [placeOf t a] ∧ answering = placeOf t a)) →
        (∀ before p after, members = before ++ p :: after →
          (∀ q ∈ before, (s.station q).state = .online ∧ (s.station q).queued .pass = false ∧
            (s.station q).flying .pass = false) →
          ((s.station p).state = .absent →
            exec (.stationPass tag al trunk address command) s = .next (s.replied 0x96 tag [13])) ∧
          ((s.station p).state = .joining ∨ (s.station p).state = .lost →
            exec (.stationPass tag al trunk address command) s = .next (s.replied 0x96 tag [14])) ∧
          ((s.station p).state = .online → ((s.station p).queued .pass = true ∨ (s.station p).flying .pass = true) →
            exec (.stationPass tag al trunk address command) s = .next (s.replied 0x96 tag [17]))) ∧
        (members.Nodup → (∀ q ∈ members, (s.station q).state = .online ∧ (s.station q).queued .pass = false ∧
            (s.station q).flying .pass = false) →
          ∃ u : State, exec (.stationPass tag al trunk address command) s = .next u ∧
            u = { s with
              stations := u.stations
              serving := some { request := .stationPass tag al trunk address command, deferred := some answering } } ∧
            ∀ q, u.station q =
              if q ∈ members then { s.station q with queue := (s.station q).queue ++ [.pass command] } else s.station q))) ∧
  ∀ (t : TrunkNo) (a : AddrIx) (st : Station) (f : InFlight) (bytes command : List Byte) (tag al trunk address : Byte)
      (s : State),
    s.Polled t a → s.station (placeOf t a) = st → st.state = .online → st.inFlight = some f → f.command = .pass bytes →
    s.serving = some { request := .stationPass tag al trunk address command, deferred := some (placeOf t a) } →
    (∀ body : List Byte, body.length ≤ 47 → s.Answers t a 4 (0x3F :: body)
      ({ s.setStation (placeOf t a) { st.heard with inFlight := none } with serving := none }.replied 0x96 tag
        ([0] ++ u8 (placeOf t a).val ++ [4] ++ u8 body.length ++ body))) ∧
    s.Answers t a 8 [] ({ s.setStation (placeOf t a) { st.heard with inFlight := none } with serving := none }.replied 0x96 tag
      [18])

/-! ### Products (Chapter 3) -/

/-- R42, R43: STAGE PRODUCT writes the staged version of its product with every limit at the nearer end of its range, in a new
entry where the product has none, and answers it as stored, field by field as Section 3.2 lists them; a structural error is refused RANGE, and a new product without a
free entry TABLE_FULL. -/
def Obligations.StageProduct : Prop :=
  ∀ (tag : Byte) (v : RawVersion) (s : State), s.Listening →
    ((v.product = 0 ∨ v.steps.length < 1 ∨ 4 < v.steps.length ∨ (∀ b : Bin, v.good[b] = 0) ∨
        ∃ x ∈ v.steps, x.kit = 0 ∨ x.programId.toNat < 1 ∨ 4095 < x.programId.toNat ∨ x.programRevision = 0) →
      exec (.stageProduct tag v) s = .next (s.replied 0xA0 tag [5])) ∧
    (v.product ≠ 0 → 1 ≤ v.steps.length → v.steps.length ≤ 4 → (∃ b : Bin, v.good[b] ≠ 0) →
      (∀ x ∈ v.steps, x.kit ≠ 0 ∧ 1 ≤ x.programId.toNat ∧ x.programId.toNat ≤ 4095 ∧ x.programRevision ≠ 0) →
      (s.product? v.product = none → 16 ≤ s.catalog.length →
        exec (.stageProduct tag v) s = .next (s.replied 0xA0 tag [8])) ∧
      ((s.product? v.product).isSome ∨ s.catalog.length < 16 →
        ∃ (u : State) (w : Version), exec (.stageProduct tag v) s = .next (u.replied 0xA0 tag ([0] ++ versionFields w)) ∧
          u = { s with catalog := u.catalog } ∧
          (∀ n, u.product? n = if n = v.product then
              some (match s.product? n with
                | some e => { e with staged := some w }
                | none => { number := n, active := none, staged := some w, revision := 0, baselines := [] })
            else s.product? n) ∧
          w.product = v.product ∧ (∀ b : Bin, w.good[b] = decide (v.good[b] ≠ 0)) ∧
          (∀ b : Bin, w.margins[b] = min 65536 v.margins[b].toNat) ∧ w.gain = v.gain.toNat ∧
          w.shift = max 1 (min 8 v.shift.toNat) ∧ w.sampleMin = max 1 v.sampleMin.toNat ∧
          w.yieldFloor = min 10000 v.yieldFloor.toNat ∧ w.learnMin = max 1 v.learnMin.toNat ∧
          w.lossAllowance = min 500 v.lossAllowance.toNat ∧ w.requireLearned = decide (v.requireLearned ≠ 0) ∧
          w.enables = { countOver := decide (v.enables[0] ≠ 0), tallyGap := decide (v.enables[1] ≠ 0)
                        countShort := decide (v.enables[2] ≠ 0), tempExcursion := decide (v.enables[3] ≠ 0)
                        binLimit := decide (v.enables[4] ≠ 0), yieldLow := decide (v.enables[5] ≠ 0) } ∧
          w.steps = v.steps.map fun x =>
            { setpoint := max (-550) (min 1750 x.setpoint.toInt), window := max 5 (min 200 x.window.toNat)
              soak := min 36000 x.soak.toNat, kit := x.kit.toNat
              program := { id := x.programId.toNat, revision := x.programRevision.toNat, check := x.check } }))

/-- R46, R47: ACTIVATE PRODUCT makes the staged version active, raises the revision and settles the baseline sets index by
index: kept where the program identities match, sixteen zeros with N = 0 otherwise. The OK reply carries the revision, the step
count and the outcome of each index: 0 kept, 1 reset, 2 new; that the
revision takes two bytes is the model's choice (log 5). -/
def Obligations.ActivateProduct : Prop :=
  ∀ (tag : Byte) (n : ProductNo) (e : Product) (s : State), s.Listening → s.HasProduct n e →
    (e.staged = none → exec (.activateProduct tag n) s = .next (s.replied 0xA1 tag [9])) ∧
    (∀ v, e.staged = some v → 65535 ≤ e.revision → exec (.activateProduct tag n) s = .next (s.replied 0xA1 tag [5])) ∧
    ∀ v, e.staged = some v → e.revision < 65535 →
      ∃ (u : State) (e' : Product) (outcomes : List Nat),
        exec (.activateProduct tag n) s = .next (u.replied 0xA1 tag
          ([0] ++ u16 (e.revision + 1) ++ u8 v.steps.length ++ outcomes.flatMap u8)) ∧
        u = { s with catalog := u.catalog } ∧ (∀ m, u.product? m = if m = n then some e' else s.product? m) ∧
        e' = { e with active := some v, staged := none, revision := e.revision + 1, baselines := e'.baselines } ∧
        e'.baselines.length = v.steps.length ∧ outcomes.length = v.steps.length ∧
        ∀ (k : Nat) (x : RouteStep), v.steps[k]? = some x →
          match e.active.bind fun (a : Version) => a.steps[k]? with
          | none => outcomes[k]? = some 2 ∧ e'.baselines[k]? = some ({ values := Vector.replicate 16 0, count := 0 } : Baseline)
          | some y =>
            if y.program = x.program then
              outcomes[k]? = some 0 ∧ ∀ b, e.baselines[k]? = some b → e'.baselines[k]? = some b
            else outcomes[k]? = some 1 ∧ e'.baselines[k]? = some ({ values := Vector.replicate 16 0, count := 0 } : Baseline)

/-- R48, R49: DISCARD STAGED drops a staged version, and the entry with it where it was never activated; DELETE PRODUCT drops an
entry that no lot in a state other than SHIPPED or SCRAPPED names. -/
def Obligations.ProductsAreDropped : Prop :=
  ∀ (tag : Byte) (n : ProductNo) (e : Product) (s : State), s.Listening → s.HasProduct n e →
    (e.staged = none → exec (.discardStaged tag n) s = .next (s.replied 0xA2 tag [31])) ∧
    (e.staged ≠ none →
      ∃ u : State, exec (.discardStaged tag n) s =
          .next (u.replied 0xA2 tag ([0] ++ (if e.active = none then [1] else [0]))) ∧
        u = { s with catalog := u.catalog } ∧
        ∀ m, u.product? m =
          if m = n then (if e.active = none then none else some { e with staged := none }) else s.product? m) ∧
    ((∃ l ∈ s.lots, l.product = n ∧ l.state ≠ .shipped ∧ l.state ≠ .scrapped) →
      exec (.deleteProduct tag n) s = .next (s.replied 0xA3 tag [12])) ∧
    ((∀ l ∈ s.lots, l.product = n → l.state = .shipped ∨ l.state = .scrapped) →
      ∃ u : State, exec (.deleteProduct tag n) s = .next (u.replied 0xA3 tag [0]) ∧ u = { s with catalog := u.catalog } ∧
        ∀ m, u.product? m = if m = n then none else s.product? m)

/-- R54: SET BASELINE writes the set of a step of the active version whole, with its values at most 65536 and N at most 255,
and answers it as stored. That N takes two bytes in the reply is the model's choice (log 5). -/
def Obligations.SetBaseline : Prop :=
  ∀ (tag step : Byte) (n : ProductNo) (count : BitVec 16) (values : Vector (BitVec 32) 16) (e : Product) (s : State),
    s.Listening → s.HasProduct n e →
    (e.active = none → exec (.setBaseline tag n step count values) s = .next (s.replied 0xA5 tag [9])) ∧
    (∀ v, e.active = some v → (step.toNat < 1 ∨ v.steps.length < step.toNat) →
      exec (.setBaseline tag n step count values) s = .next (s.replied 0xA5 tag [5])) ∧
    ∀ v, e.active = some v → 1 ≤ step.toNat → step.toNat ≤ v.steps.length →
      ∃ (u : State) (b : Baseline),
        exec (.setBaseline tag n step count values) s = .next (u.replied 0xA5 tag
          ([0] ++ u16 b.count ++ (b.values.toList.flatMap fun x => u32 x))) ∧
        b.count = min 255 count.toNat ∧ (∀ i : Bin, b.values[i] = min 65536 values[i].toNat) ∧
        u = { s with catalog := u.catalog } ∧
        ∀ m, u.product? m =
          if m = n then some { e with baselines := e.baselines.set (step.toNat - 1) b } else s.product? m

/-- R50, R55: READ PRODUCT answers a version as stored, in the fields of Section 3.2, or for product number 0 the entries of the
catalog, and READ BASELINE a baseline set, WRONG_STATE without an active version and RANGE for a step it does not have; neither
changes anything else. The width of N in READ BASELINE and those of the listing
are the model's choice (log 5). -/
def Obligations.ProductsAreRead : Prop :=
  ∀ (tag selector step : Byte) (s : State), s.Listening →
    exec (.readProduct tag 0 selector) s = .next (s.replied 0xA4 tag ([0] ++ u8 s.catalog.length ++
      s.catalog.flatMap fun (e : Product) => u16 e.number.toNat ++ u16 e.revision ++ yesNo e.active.isSome ++
        yesNo e.staged.isSome ++
        u8 (s.lots.filter fun l => l.product == e.number && (l.state != .shipped && l.state != .scrapped)).length)) ∧
    ∀ n e, s.HasProduct n e →
      (1 < selector.toNat → exec (.readProduct tag n selector) s = .next (s.replied 0xA4 tag [5])) ∧
      (selector.toNat ≤ 1 → (if selector = 0 then e.active else e.staged) = none →
        exec (.readProduct tag n selector) s = .next (s.replied 0xA4 tag [9])) ∧
      (∀ v, selector.toNat ≤ 1 → (if selector = 0 then e.active else e.staged) = some v →
        exec (.readProduct tag n selector) s = .next (s.replied 0xA4 tag
          ([0] ++ u16 e.revision ++ flag e.active.isSome ++ flag e.staged.isSome ++ versionFields v))) ∧
      (e.active = none → exec (.readBaseline tag n step) s = .next (s.replied 0xA6 tag [9])) ∧
      (∀ v, e.active = some v → (step.toNat < 1 ∨ v.steps.length < step.toNat) →
        exec (.readBaseline tag n step) s = .next (s.replied 0xA6 tag [5])) ∧
      ∀ v b, e.active = some v → 1 ≤ step.toNat → step.toNat ≤ v.steps.length → e.baselines[step.toNat - 1]? = some b →
        exec (.readBaseline tag n step) s = .next (s.replied 0xA6 tag
          ([0] ++ u16 e.revision ++ u16 b.count ++ (b.values.toList.flatMap fun x => u32 x)))

/-! ### Lots (Chapter 4) -/

/-- R60, R61, R62, R68: CREATE LOT builds a WAITING lot at step 1 with a copy of the active version, one fresh insertion record
for each step, a new stamp and a place in the dispatch queue; its refusals come in the order of R60. The widths of the numbers of the OK reply are the model's choice (log 5). -/
def Obligations.CreateLot : Prop :=
  ∀ (tag priority : Byte) (n : LotNo) (p : ProductNo) (quantity ticket : BitVec 32) (s : State) (i : Instr), s.Listening →
    i = .createLot tag n p quantity priority ticket →
    (n = 0 → exec i s = .next (s.replied 0xB0 tag [5])) ∧
    (n ≠ 0 → (s.lot? n).isSome → exec i s = .next (s.replied 0xB0 tag [7])) ∧
    (n ≠ 0 → s.lot? n = none →
      (p = 0 → exec i s = .next (s.replied 0xB0 tag [5])) ∧
      (p ≠ 0 → s.product? p = none → exec i s = .next (s.replied 0xB0 tag [6])) ∧
      ∀ e, s.HasProduct p e →
        (e.active = none → exec i s = .next (s.replied 0xB0 tag [9])) ∧
        ∀ v, e.active = some v →
          (quantity.toNat = 0 ∨ 250000 < quantity.toNat → exec i s = .next (s.replied 0xB0 tag [5])) ∧
          (1 ≤ quantity.toNat → quantity.toNat ≤ 250000 → 64 ≤ s.lots.length →
            exec i s = .next (s.replied 0xB0 tag [8])) ∧
          (1 ≤ quantity.toNat → quantity.toNat ≤ 250000 → s.lots.length < 64 →
            ∃ u : State, exec i s = .next (u.replied 0xB0 tag
                ([0] ++ u16 e.revision ++ u8 v.steps.length ++ u8 (min 3 priority.toNat) ++ u32 s.nextStamp.toNat)) ∧
              u = { s with
                lots := u.lots, nextStamp := s.nextStamp + 1
                dispatchQueue := putBy BitVec.toNat n s.dispatchQueue, evalPending := s.evalPending || s.committed } ∧
              ∀ m, u.lot? m = if m = n then
                  some { number := n, product := p, revision := e.revision, snapshot := v
                         startQuantity := quantity.toNat, ticket := ticket, priority := min 3 priority.toNat
                         state := .waiting, currentStep := 1, stamp := s.nextStamp, enqueueTick := s.tick, cell := none
                         records := (List.range v.steps.length).map fun k =>
                           { outcome := .notRun, input := if k = 0 then some quantity.toNat else none, tested := 0, good := 0
                             bins := Vector.replicate 16 0, extremes := none, lastSeq := 255, number := none
                             segments := 0, retests := 0, findings := [], waivers := [], yieldAtClose := none }
                         holds := [], attempts := 0, shipQuantity := none, release := none }
                else s.lot? m))

/-- R63, R73: SET PRIORITY writes the class of a lot that may wait again and is a trigger of evaluation; PURGE LOT removes the
record of a SHIPPED or SCRAPPED lot. In the other states each is refused WRONG_STATE. -/
def Obligations.PriorityAndPurge : Prop :=
  ∀ (tag priority : Byte) (n : LotNo) (l : Lot) (s : State), s.Listening → s.HasLot n l →
    (l.state = .waiting ∨ l.state = .assigned ∨ l.state = .running →
      exec (.setPriority tag n priority) s = .next ({ s with
        lots := s.lots.map fun (x : Lot) => if x.number = n then { x with priority := min 3 priority.toNat } else x
        evalPending := s.evalPending || s.committed }.replied 0xB1 tag ([0] ++ u8 (min 3 priority.toNat))) ∧
      exec (.purgeLot tag n) s = .next (s.replied 0xB4 tag [9])) ∧
    (l.state = .complete ∨ l.state = .released →
      exec (.setPriority tag n priority) s = .next (s.replied 0xB1 tag [9]) ∧
      exec (.purgeLot tag n) s = .next (s.replied 0xB4 tag [9])) ∧
    (l.state = .shipped ∨ l.state = .scrapped →
      exec (.setPriority tag n priority) s = .next (s.replied 0xB1 tag [9]) ∧
      exec (.purgeLot tag n) s =
        .next ({ s with lots := s.lots.filter fun x => x.number != n }.replied 0xB4 tag [0]))

/-- R71, R72: READ LOT answers the summary, field by field, or the snapshot of a lot (in the fields of Section 3.2), and LIST LOTS
the numbers of the lots a filter selects, from a start index on, up to 16; neither changes anything else. The presence fields
before their values and the widths that the rules leave open, with the 4 bytes of the start, input and ship quantities, T and G, are the
model's choice (log 5). -/
def Obligations.LotsAreRead : Prop :=
  ∀ (tag selector filter start : Byte) (s : State), s.Listening →
    (∀ n l, s.HasLot n l →
      (selector = 0 → exec (.readLot tag n selector) s = .next (s.replied 0xB2 tag
        (([0] : List Byte) ++ u32 n.toNat ++ u16 l.product.toNat ++ u16 l.revision ++
          flag (match s.product? l.product with | some e => decide (e.revision = l.revision) | none => false) ++
          u8 l.snapshot.steps.length ++ u32 l.startQuantity ++ u8 l.priority ++ flag (decide (l.ticket = 0)) ++
          u8 (match l.state with
            | .waiting => 1 | .assigned => 2 | .running => 3 | .complete => 4 | .released => 5 | .shipped => 6
            | .scrapped => 7) ++
          u8 l.currentStep ++ u32 l.stamp.toNat ++ u32 l.enqueueTick.toNat ++ optional 1 (fun c : CellNo => u8 c.val) l.cell ++
          u8 l.holds.length ++ u8 (match l.holds with | h :: _ => h.cause.rank | [] => 0) ++ u8 l.attempts ++
          optional 4 u32 l.shipQuantity ++ optional 4 (fun x : ReleaseRecord => u32 x.tick.toNat) l.release ++
          l.records.flatMap fun r =>
            u8 (match r.outcome with
              | .notRun => 0 | .running => 1 | .partialHeld => 2 | .completeHeld => 3 | .completeClean => 4) ++
            optional 4 u32 r.input ++ u32 r.tested ++ u32 r.good ++ u8 r.retests ++ u8 r.segments ++
            optional 2 u16 r.yieldAtClose))) ∧
      (selector = 1 →
        exec (.readLot tag n selector) s = .next (s.replied 0xB2 tag ([0] ++ u16 l.revision ++ versionFields l.snapshot))) ∧
      (1 < selector.toNat → exec (.readLot tag n selector) s = .next (s.replied 0xB2 tag [5]))) ∧
    (8 < filter.toNat → exec (.listLots tag filter start) s = .next (s.replied 0xB3 tag [5])) ∧
    (filter.toNat ≤ 8 → ∀ chosen : List Lot,
      chosen = (s.lots.filter fun l =>
        if filter = 0 then true else if filter = 8 then l.holds != [] else u8 l.state.code == [filter]) →
      exec (.listLots tag filter start) s = .next (s.replied 0xB3 tag
        ([0] ++ u8 chosen.length ++ [start] ++ u8 ((chosen.drop start.toNat).take 16).length ++
          ((chosen.drop start.toNat).take 16).flatMap fun l => u32 l.number.toNat)))

/-- R34, R97, R105, R106, R108, R41, R56: what a request is refused for whose number names nothing. A slot outside 0..7 is RANGE. A number in the station table of names of
0 or 255 is RANGE, one not in the table NO_SUCH, a group where one station is needed ALIAS_GROUP and, where a tester is
needed, an ABSENT place STATION_ABSENT and a HANDLER place KIND_MISMATCH; a product or lot number of 0 is RANGE and one not in
its table NO_SUCH. A refusal changes nothing (R7); RELEASE LOT, whose refusals post an event, stands apart. -/
def Obligations.NumbersResolve : Prop :=
  (∀ (tag al slot value kind : Byte) (s : State), s.Listening → slot.toNat < 8 →
     ∀ testers : List Instr, testers = [.eraseSlot tag al slot, .verifySlot tag al slot, .qualifySlot tag al slot,
       .setLockOverride tag al value, .purgeTester tag al, .setProtectFloor tag al value, .clearTesterErrors tag al,
       .readTester tag al] →
     ∀ i ∈ Instr.retireStation tag al :: testers, i.requestKind = some kind →
       (al = 0 ∨ al = 255 → exec i s = .next (s.replied (kind + 0x80) tag [5])) ∧
       (al ≠ 0 → al ≠ 255 → s.alias? al = none → exec i s = .next (s.replied (kind + 0x80) tag [6])) ∧
       (∀ e, s.HasAlias al e → 2 ≤ e.members.length → exec i s = .next (s.replied (kind + 0x80) tag [16])) ∧
       ∀ p, s.SingleAlias al p → i ∈ testers →
         ((s.station p).state = .absent → exec i s = .next (s.replied (kind + 0x80) tag [13])) ∧
         ((s.station p).state ≠ .absent → (s.station p).kind = some .handler →
           exec i s = .next (s.replied (kind + 0x80) tag [15]))) ∧
  (∀ (tag al slot kind : Byte) (s : State), s.Listening → 8 ≤ slot.toNat →
     ∀ i ∈ ([.eraseSlot tag al slot, .verifySlot tag al slot, .qualifySlot tag al slot] : List Instr),
       i.requestKind = some kind → exec i s = .next (s.replied (kind + 0x80) tag [5])) ∧
  (∀ (tag al kind : Byte) (s : State), s.Listening →
     (∀ i ∈ ([.readStation tag al, .deleteAlias tag al] : List Instr), i.requestKind = some kind →
       (al = 0 ∨ al = 255 → exec i s = .next (s.replied (kind + 0x80) tag [5])) ∧
       (al ≠ 0 → al ≠ 255 → s.alias? al = none → exec i s = .next (s.replied (kind + 0x80) tag [6]))) ∧
     (al ≠ 0 → al ≠ 255 → s.alias? al = none → exec (.readAlias tag al) s = .next (s.replied 0x95 tag [6]))) ∧
  (∀ (tag step selector kind : Byte) (n : ProductNo) (count : BitVec 16) (values : Vector (BitVec 32) 16) (s : State),
     s.Listening →
     (∀ i ∈ ([.activateProduct tag n, .discardStaged tag n, .deleteProduct tag n, .setBaseline tag n step count values,
         .readBaseline tag n step] : List Instr), i.requestKind = some kind →
       (n = 0 → exec i s = .next (s.replied (kind + 0x80) tag [5])) ∧
       (n ≠ 0 → s.product? n = none → exec i s = .next (s.replied (kind + 0x80) tag [6]))) ∧
     (n ≠ 0 → selector.toNat ≤ 1 → s.product? n = none →
       exec (.readProduct tag n selector) s = .next (s.replied 0xA4 tag [6]))) ∧
  (∀ (tag a b kind : Byte) (n : LotNo) (s : State), s.Listening →
     ∀ i ∈ ([.setPriority tag n a, .readLot tag n a, .purgeLot tag n, .cancelAssignment tag n, .readInsertion tag n a,
         .holdLot tag n, .dispose tag n a b, .readHolds tag n, .shipConfirm tag n] : List Instr),
       i.requestKind = some kind →
       (n = 0 → exec i s = .next (s.replied (kind + 0x80) tag [5])) ∧
       (n ≠ 0 → s.lot? n = none → exec i s = .next (s.replied (kind + 0x80) tag [6])))

/-! ### Cells (Chapter 5) -/

/-- R76, R34, R77: DOCK CELL docks an EMPTY cell, IDLE where both places are ONLINE and FAULTED otherwise, and refuses in the order
of R76, the handler alias resolved before the tester alias; UNDOCK CELL empties an IDLE or FAULTED cell. -/
def Obligations.CellsAreDocked : Prop :=
  (∀ (tag cell ha ta : Byte) (c : CellNo) (h p : Place) (s : State) (i : Instr), s.Listening → cell.toNat = c.val →
    i = .dockCell tag cell ha ta →
    ((s.cell c).state ≠ .empty → exec i s = .next (s.replied 0xB8 tag [7])) ∧
    ((s.cell c).state = .empty → s.SingleAlias ha h → s.SingleAlias ta p →
      ((s.station h).state = .absent ∨ (s.station p).state = .absent → exec i s = .next (s.replied 0xB8 tag [13])) ∧
      ((s.station h).state ≠ .absent → (s.station p).state ≠ .absent →
        ((s.station h).kind ≠ some .handler ∨ (s.station p).kind ≠ some .tester →
          exec i s = .next (s.replied 0xB8 tag [15])) ∧
        ((s.station h).kind = some .handler → (s.station p).kind = some .tester →
          (s.isDocked h = true ∨ s.isDocked p = true → exec i s = .next (s.replied 0xB8 tag [12])) ∧
          (s.isDocked h = false → s.isDocked p = false →
            ∃ (u : State) (state : CellState),
              state = (if (s.station h).state = .online ∧ (s.station p).state = .online then .idle else .faulted) ∧
              exec i s = .next (u.replied 0xB8 tag ([0] ++ u8 state.code)) ∧
              u = { s with
                cells := s.cells.set c
                  { state := state, commanded := none, lastTemp := none, work := none, prep := none, insertion := none
                    phaseDeadline := none, recoveryDue := false
                    dock := some { handler := h, handlerAlias := ha, tester := p, testerAlias := ta, kit := 0, recovery := 0 } }
                evalPending := s.evalPending || (state == .idle && s.committed)
                events := u.events, discards := u.discards } ∧
              if state = .idle then s.Posted u .cellIdle (BitVec.ofNat 32 c.val) [0, 0, 0]
              else s.Posted u .cellFaulted (BitVec.ofNat 32 c.val) [1, 0, 0, 0, 0]))))) ∧
  (∀ (tag cell ha ta : Byte) (c : CellNo) (s : State) (i : Instr), s.Listening → cell.toNat = c.val →
    i = .dockCell tag cell ha ta → (s.cell c).state = .empty →
    ∀ al : Byte, (al = ha ∨ al = ta ∧ ∃ h, s.SingleAlias ha h) →
      (al = 0 ∨ al = 255 → exec i s = .next (s.replied 0xB8 tag [5])) ∧
      (al ≠ 0 → al ≠ 255 → s.alias? al = none → exec i s = .next (s.replied 0xB8 tag [6])) ∧
      (∀ e, s.HasAlias al e → 2 ≤ e.members.length → exec i s = .next (s.replied 0xB8 tag [16]))) ∧
  ∀ (tag cell : Byte) (c : CellNo) (s : State), s.Listening → cell.toNat = c.val →
    if (s.cell c).state = .idle ∨ (s.cell c).state = .faulted then
      exec (.undockCell tag cell) s = .next ((s.setCell c
        { state := .empty, dock := none, commanded := none, lastTemp := none, work := none, prep := none, insertion := none
          phaseDeadline := none, recoveryDue := false }).replied 0xB9 tag [0])
    else exec (.undockCell tag cell) s = .next (s.replied 0xB9 tag [9])

/-- R90, R130, R96, R84: CANCEL ASSIGNMENT of an ASSIGNED lot, RESET CELL of a cell in SETUP or PREPARING and SETUP_EXPIRED
cancel the assignment and leave the cell IDLE with its recovery timer unchanged; CANCEL ASSIGNMENT of any other lot is refused
WRONG_STATE, RESET CELL of an IDLE cell changes nothing, and that of a FAULTED or EMPTY one is refused WRONG_STATE. That an expiry row may stand in the queue by itself is the model's
choice (log 11). R80, R85, R89: a KIT report of another family in PREPARING cancels with KIT_CHANGED; the failed end of the
current SET SETPOINT or START INSERTION cancels with SETPOINT_FAILED or START_FAILED and loads the recovery timer. -/
def Obligations.AssignmentsAreCancelled : Prop :=
  (∀ (c : CellNo) (d : Dock) (w : Work) (l : Lot) (s : State),
    ((s.cell c).dock = some d → (s.cell c).work = some w → s.HasLot w.lot l →
      (∀ tag, s.Listening → l.state = .assigned → l.cell = some c →
        ∃ u : State, exec (.cancelAssignment tag w.lot) s = .next (u.replied 0xD0 tag ([0] ++ u8 c.val ++ [1])) ∧
          s.Cancelled u c d w l 1) ∧
      (∀ tag cell : Byte, s.Listening → cell.toNat = c.val →
        ((s.cell c).state = .setup ∨ (s.cell c).state = .preparing) →
        ∃ u : State, exec (.resetCell tag cell) s = .next (u.replied 0xBB tag [0]) ∧ s.Cancelled u c d w l 12) ∧
      (∀ deadline st, s.inReset = none → (s.cell c).state = .setup → (s.cell c).phaseDeadline = some deadline →
        deadline.span ≤ elapsed s.tick deadline.start → l.stepAt w.step = some st →
        ∃ v u : State, exec (.setupExpired c) s = .next u ∧ v = { s with events := v.events, discards := v.discards } ∧
          s.Posted v .setupExpired (BitVec.ofNat 32 c.val) (u32 w.lot.toNat ++ u8 st.kit ++ u8 d.kit) ∧
          v.Cancelled u c d w l 3)) ∧
    ∀ tag cell : Byte, s.Listening → cell.toNat = c.val →
      ((s.cell c).state = .idle → exec (.resetCell tag cell) s = .next (s.replied 0xBB tag [0])) ∧
      ((s.cell c).state = .faulted ∨ (s.cell c).state = .empty →
        exec (.resetCell tag cell) s = .next (s.replied 0xBB tag [9]))) ∧
  (∀ (tag : Byte) (n : LotNo) (l : Lot) (s : State), s.Listening → s.HasLot n l → l.state ≠ .assigned →
    exec (.cancelAssignment tag n) s = .next (s.replied 0xD0 tag [9])) ∧
  ∀ (t : TrunkNo) (a : AddrIx) (x : Station) (c : CellNo) (d : Dock) (y : Cell) (w : Work) (l : Lot) (s : State),
    s.Polled t a → s.station (placeOf t a) = x → x.state = .online → x.kind = some .handler →
    s.HandlerOf (placeOf t a) c d → s.cell c = y → y.state = .preparing → y.work = some w → s.HasLot w.lot l →
    (∀ (f : Byte) st, l.stepAt w.step = some st → f.toNat ≠ st.kit →
      ∃ u : State, s.Answers t a 0 [0x11, f] u ∧
        { s.setStation (placeOf t a) x.heard with
          cells := s.cells.set c { y with dock := some { d with kit := f.toNat } } }.Cancelled u c d w l 7) ∧
    ∀ fl, x.inFlight = some fl →
      (∀ ref z q, fl.command = .setSetpoint ref z → y.prep = some q → q.setpointCommand = some ref →
        ∃ u : State, s.Answers t a 8 [] u ∧
          { s.setStation (placeOf t a) { x.heard with inFlight := none } with
            cells := s.cells.set c { y with
              commanded := none, dock := some { d with recovery := s.policy.recoveryTime } } }.Cancelled u c d w l 4) ∧
      ∀ n lot step quantity, fl.command = .startInsertion n lot step quantity → y.insertion = some n →
        ∃ u : State, s.Answers t a 8 [] u ∧
          { s.setStation (placeOf t a) { x.heard with inFlight := none } with
            cells := s.cells.set c { y with
              dock := some { d with recovery := s.policy.recoveryTime } } }.Cancelled u c d w l 5

/-- R93, R96, R139, R142, R143: STOP_EXPIRED and RESET CELL of a RUNNING or STOPPING cell close the segment partial: the cell is
IDLE with its recovery timer set to RECOVERY_TIME, and the lot WAITING at its step with its counts kept and the record
PARTIAL_HELD, in the dispatch queue where its hold set is empty; no other lot, cell, station or tester changes, and the events
of the close stand in the order of R143. That STOP_EXPIRED may stand in the queue by itself is the model's choice (log 11). R138,
R91: an END with its stopped flag set closes partial too, with no CELL_FAULT and the recovery timer unchanged. -/
def Obligations.SegmentsAreCutOff : Prop :=
  (∀ (c : CellNo) (d : Dock) (w : Work) (l : Lot) (r : Insertion) (s : State),
    (s.cell c).dock = some d → (s.cell c).work = some w → s.HasLot w.lot l → l.current = some r →
    ∀ (i : Instr) (replies : List Reply),
      ((∃ deadline, i = .stopExpired c ∧ replies = s.replies ∧ s.inReset = none ∧ (s.cell c).state = .stopping ∧
          (s.cell c).phaseDeadline = some deadline ∧ deadline.span ≤ elapsed s.tick deadline.start) ∨
        (∃ tag cell, i = .resetCell tag cell ∧ cell.toNat = c.val ∧ s.Listening ∧
          replies = s.replies ++ [{ kind := 0xBB, tag := tag, payload := [0] }] ∧
          ((s.cell c).state = .running ∨ (s.cell c).state = .stopping))) →
      ∃ (u : State) (l' : Lot) (r' : Insertion), exec i s = .next u ∧
        u = { s with
          replies := replies, lots := u.lots, cells := u.cells, dispatchQueue := u.dispatchQueue
          evalPending := s.evalPending || s.committed, events := u.events, discards := u.discards } ∧
        (∀ c', c' ≠ c → u.cell c' = s.cell c') ∧
        u.cell c = { s.cell c with
          state := .idle, work := none, prep := none, insertion := none, phaseDeadline := none
          dock := some { d with recovery := s.policy.recoveryTime } } ∧
        (∀ n, n ≠ w.lot → u.lot? n = s.lot? n) ∧ u.lot? w.lot = some l' ∧
        l' = { l with state := .waiting, cell := none, records := l'.records, holds := l'.holds } ∧
        l'.current = some r' ∧
        r' = { r with outcome := .partialHeld, number := none, findings := r'.findings } ∧
        (∃ f ∈ r'.findings, f.cause = .cellFault) ∧
        (Cause.cellFault ∉ r.waivers → ∃ h ∈ l'.holds, h.cause = .cellFault) ∧
        (w.lot ∉ s.dispatchQueue →
          u.dispatchQueue = if l'.holds = [] then putBy BitVec.toNat w.lot s.dispatchQueue else s.dispatchQueue) ∧
        ∀ (stop : List Event) (cause : Nat),
          (i = .stopExpired c ∧ cause = 2 ∧ stop = [{
              kind := .stopExpired, tick := s.tick, subject := BitVec.ofNat 32 c.val
              detail := u32 w.lot.toNat ++ u16 ((s.cell c).insertion.getD 0) }] ∨
            (∃ tag cell, i = .resetCell tag cell) ∧ cause = 6 ∧ stop = []) →
          (∀ f ∈ r.findings, f.cause ≠ .cellFault) → Cause.cellFault ∉ r.waivers → (∀ h ∈ l.holds, h.cause ≠ .cellFault) →
          s.events.length + 4 ≤ 64 →
          u.events = s.events ++ stop ++
            [{ kind := .finding, tick := s.tick, subject := w.lot
               detail := u8 l.currentStep ++ [3, 3] ++ u8 cause ++ u16 ((s.cell c).insertion.getD 0) ++ [0, 0] },
             { kind := .holdRaised, tick := s.tick, subject := w.lot
               detail := [3] ++ u8 l.currentStep ++ u8 (leadingRank l'.holds) ++ u8 (l.holds.length + 1) ++ [1] },
             { kind := .insertionClosed, tick := s.tick, subject := w.lot
               detail := u8 l.currentStep ++ [2] ++ u8 cause ++ u24 r.tested ++ u16 (r.yieldAtClose.getD 65535) }]) ∧
  ∀ (t : TrunkNo) (a : AddrIx) (x : Station) (c : CellNo) (d : Dock) (y : Cell) (w : Work) (l : Lot) (r : Insertion)
      (hi lo final stopped : Byte) (s : State),
    s.Polled t a → s.station (placeOf t a) = x → x.state = .online → x.kind = some .handler →
    s.HandlerOf (placeOf t a) c d → s.cell c = y → (y.state = .running ∨ y.state = .stopping) → y.work = some w →
    y.insertion = some (be16 hi lo) → s.HasLot w.lot l → l.current = some r → w.lot ∉ s.dispatchQueue → stopped ≠ 0 →
    ∃ (u : State) (l' : Lot) (r' : Insertion), s.Answers t a 0 [0x15, hi, lo, final, stopped] u ∧
      u = { s.setStation (placeOf t a) x.heard with
        lots := u.lots
        cells := s.cells.set c { y with
          state := .idle, work := none, prep := none, insertion := none, phaseDeadline := none }
        dispatchQueue := if l'.holds = [] then putBy BitVec.toNat w.lot s.dispatchQueue else s.dispatchQueue
        evalPending := s.evalPending || s.committed, events := u.events, discards := u.discards } ∧
      (∀ n, n ≠ w.lot → u.lot? n = s.lot? n) ∧ u.lot? w.lot = some l' ∧
      l' = { l with state := .waiting, cell := none, records := l'.records, holds := l'.holds } ∧
      l'.current = some r' ∧ r' = { r with outcome := .partialHeld, number := none, findings := r'.findings } ∧
      (final = r.lastSeq → r'.findings = r.findings ∧ l'.holds = l.holds ∧
        s.Posted u .insertionClosed w.lot
          (u8 l.currentStep ++ [2, 1] ++ u24 r.tested ++ u16 (r.yieldAtClose.getD 65535))) ∧
      (final ≠ r.lastSeq → ∃ f ∈ r'.findings, f.cause = .tallyGap)

/-- R82, R87, R88, R119, R120: RECOVERY_TIMER_EXPIRY and AGE_PROMOTION are triggers of evaluation (the fields that hold their
occasion are the model's own, log 4). SOAK_DEADLINE_EXPIRY completes the soak and, where the other two parts of the preparation
are done, offers START INSERTION to the handler with the next insertion number (that its row may stand in the queue by itself is
the model's choice, log 11). R81, R87: a TEMP report writes the last temperature, clamped; in PREPARING before the start one in
the window starts the soak and one outside discards it. R82: an answer with the alarm flag loads the recovery timer of the docked
cell, and discards the soak in PREPARING before the start (that a RECOVERY_TIME of 0 is no trigger is the model's choice, log 4).
R80, R83: a KIT report of the step's family ends SETUP and the
preparation begins, with its setpoint and its readiness plan (`State.EntersPreparing`; the reference of a SET SETPOINT is the model's
own, log 3); one of another family leaves the cell in SETUP. -/
def Obligations.TimersAreTaken : Prop :=
  (∀ (c : CellNo) (s : State), s.inReset = none → (s.cell c).recoveryDue = true →
    exec (.recoveryTimerExpiry c) s = .next { s with
      cells := s.cells.set c { s.cell c with recoveryDue := false }, evalPending := s.evalPending || s.committed }) ∧
  (∀ s : State, s.inReset = none → s.ageDue = true →
    exec .agePromotion s = .next { s with ageDue := false, evalPending := s.evalPending || s.committed }) ∧
  (∀ (c : CellNo) (d : Dock) (w : Work) (l : Lot) (st : RouteStep) (r : Insertion) (q : Prep) (soak : Deadline) (s : State),
    s.inReset = none → (s.cell c).dock = some d → (s.cell c).work = some w → s.lot? w.lot = some l →
    l.stepAt w.step = some st → l.recordAt w.step = some r →
    (s.cell c).state = .preparing → (s.cell c).insertion = none → (s.cell c).prep = some q →
    q.soakDeadline = some { deadline := soak, expired := false } → soak.span ≤ elapsed s.tick soak.start →
    (q.setpointDone = false ∨ q.programDone = false →
      exec (.soakDeadlineExpiry c) s = .next (s.setCell c { s.cell c with
        prep := some { q with soakDeadline := some { deadline := soak, expired := true } } })) ∧
    (q.setpointDone = true → q.programDone = true → q.soakStart.isSome →
      (s.station d.handler).state = .online → (s.station d.handler).queued .internal = false →
      exec (.soakDeadlineExpiry c) s = .next { s with
        nextInsertion := if s.nextInsertion = 65535 then 1 else s.nextInsertion + 1
        cells := s.cells.set c { s.cell c with
          insertion := some s.nextInsertion
          prep := some { q with soakDeadline := some { deadline := soak, expired := true } } }
        stations := s.stations.set d.handler { s.station d.handler with
          queue := (s.station d.handler).queue ++
            [.startInsertion s.nextInsertion w.lot w.step (r.input.getD 0 - r.tested)] } })) ∧
  ∀ (t : TrunkNo) (a : AddrIx) (x : Station) (c : CellNo) (d : Dock) (y : Cell) (s : State),
    s.Polled t a → s.station (placeOf t a) = x → x.state = .online → x.kind = some .handler →
    s.HandlerOf (placeOf t a) c d → s.cell c = y →
    (∀ (hi lo : Byte) (z : Int), z = max (-600) (min 2000 (BitVec.ofNat 16 (be16 hi lo)).toInt) →
      (y.state = .idle ∨ y.state = .setup ∨ y.state = .faulted ∨ y.state = .preparing ∧ y.insertion.isSome →
        s.Answers t a 0 [0x12, hi, lo] { s.setStation (placeOf t a) x.heard with
          cells := s.cells.set c { y with lastTemp := some (z, s.tick) } }) ∧
      ∀ w l st q, y.state = .preparing → y.insertion = none → y.work = some w → s.lot? w.lot = some l →
        l.stepAt w.step = some st → y.prep = some q →
        (st.setpoint - (st.window : Int) ≤ z → z ≤ st.setpoint + (st.window : Int) → x.alarm = false → q.setpointDone = true →
          q.soakStart = none → 1 ≤ st.soak →
          s.Answers t a 0 [0x12, hi, lo] { s.setStation (placeOf t a) x.heard with
            cells := s.cells.set c { y with
              lastTemp := some (z, s.tick)
              prep := some { q with
                soakStart := some s.tick
                soakDeadline := some { deadline := { start := s.tick, span := st.soak }, expired := false } } } }) ∧
        (z < st.setpoint - (st.window : Int) ∨ st.setpoint + (st.window : Int) < z → q.soakStart.isSome →
          s.Answers t a 0 [0x12, hi, lo] { s.setStation (placeOf t a) x.heard with
            cells := s.cells.set c { y with
              lastTemp := some (z, s.tick), prep := some { q with soakStart := none, soakDeadline := none } } })) ∧
    (y.state ≠ .empty → s.Answers t a 2 [] { s.setStation (placeOf t a) { x.heard with alarm := true } with
      cells := s.cells.set c { y with
        dock := some { d with recovery := s.policy.recoveryTime }
        prep := if y.state = .preparing ∧ y.insertion = none then
            y.prep.map fun q => { q with soakStart := none, soakDeadline := none }
          else y.prep } }) ∧
    ∀ (f : Byte) w l st, y.state = .setup → y.work = some w → s.lot? w.lot = some l → l.stepAt w.step = some st →
      (f.toNat ≠ st.kit → s.Answers t a 0 [0x11, f] { s.setStation (placeOf t a) x.heard with
        cells := s.cells.set c { y with dock := some { d with kit := f.toNat } } }) ∧
      (∀ e : Dock, e = { d with kit := f.toNat } → f.toNat = st.kit →
        ∃ u : State, s.Answers t a 0 [0x11, f] u ∧
          { s.setStation (placeOf t a) x.heard with
            cells := s.cells.set c { y with dock := some e } }.EntersPreparing u c e st) ∧
      ∀ k : SlotNo, f.toNat = st.kit → y.commanded = some st.setpoint →
        (s.tester d.tester).plan st.program s.tick = some (.select k) → (s.tester d.tester).outstanding = none →
        d.tester ≠ placeOf t a → (s.station d.tester).state = .online → (s.station d.tester).queued .internal = false →
        s.Answers t a 0 [0x11, f] { s with
          cells := s.cells.set c { y with
            state := .preparing, phaseDeadline := none, dock := some { d with kit := f.toNat }
            prep := some { setpointDone := true, programDone := false, soakStart := none, soakDeadline := none
                           setpointCommand := none } }
          testers := s.testers.set d.tester { s.tester d.tester with
            readiness := some { cell := c, program := st.program, plan := .select k, stage := .select }
            outstanding := some { op := .select, slot := k, awaited := true } }
          stations := (s.stations.set (placeOf t a) x.heard).set d.tester { s.station d.tester with
            queue := (s.station d.tester).queue ++ [Command.slotCommand .select k 0 0] } }

/-! ### Testers (Chapter 6) -/

/-- R102, R103, R104: LOAD PROGRAM starts a load on every member where every member is an ONLINE quiet tester with no error
flag and an unprotected, unlocked, EMPTY slot; the answering member's outcome alone is reported. Otherwise it is refused by the
first check that fails, the members taken in order. R99: the end of a LOAD gives its outcome, DONE, MISMATCH, NO_REPORT or FAILED,
which the slot, the load-error flag and LOAD_RESULT take; LOAD_RESULT names the program commanded also at a MISMATCH (log 14). R114,
R115: the restart of the tester ends a LOAD that stands queued with outcome RESTART, and its loss with outcome LOST. -/
def Obligations.LoadProgram : Prop :=
  (∀ (tag al slot programRevision : Byte) (k : SlotNo) (programId : BitVec 16) (check : BitVec 32) (e : AliasEntry) (s : State),
    s.Listening → slot.toNat = k.val → 1 ≤ programId.toNat → programId.toNat ≤ 4095 → programRevision ≠ 0 →
    s.HasAlias al e → e.members.Nodup →
    (∀ p ∈ e.members, (s.station p).state = .online ∧ (s.station p).kind = some .tester ∧
      (s.station p).queued .internal = false ∧ (s.tester p).opState = .idle ∧ (s.tester p).outstanding = none ∧
      (s.tester p).next = none ∧ (s.tester p).loadError = false ∧ (s.tester p).eraseError = false ∧
      k.val < (s.tester p).protectFloor ∧ ((s.tester p).slot k).locked = false ∧ ((s.tester p).slot k).state = .empty) →
    ∃ u : State, exec (.loadProgram tag al slot programId programRevision check) s =
        .next (u.replied 0xC0 tag ([1] ++ u8 e.members.length ++ u8 e.answering.val)) ∧
      u = { s with stations := u.stations, testers := u.testers } ∧
      ∀ p, if p ∈ e.members then
          u.station p = { s.station p with
            queue := (s.station p).queue ++ [.slotCommand .load k programId.toNat programRevision.toNat] } ∧
          u.tester p = { s.tester p with
            opState := .loading
            operation := some { slot := k, origin := .host, reported := p == e.answering, members := e.members.length
                                expected := { id := programId.toNat, revision := programRevision.toNat, check := check }
                                erased := 0, handled := none }
            outstanding := some { op := .load, slot := k, awaited := true }
            slots := (s.tester p).slots.set k { (s.tester p).slot k with
              state := .loading, program := some (programId.toNat, programRevision.toNat), check := none } }
        else u.station p = s.station p ∧ u.tester p = s.tester p) ∧
  (∀ (tag al slot programRevision : Byte) (programId : BitVec 16) (check : BitVec 32) (s : State) (i : Instr), s.Listening →
    i = .loadProgram tag al slot programId programRevision check →
    (8 ≤ slot.toNat ∨ programId.toNat < 1 ∨ 4095 < programId.toNat ∨ programRevision = 0 →
      exec i s = .next (s.replied 0xC0 tag [5])) ∧
    ∀ k : SlotNo, slot.toNat = k.val → 1 ≤ programId.toNat → programId.toNat ≤ 4095 → programRevision ≠ 0 →
      (al = 0 ∨ al = 255 → exec i s = .next (s.replied 0xC0 tag [5])) ∧
      (al ≠ 0 → al ≠ 255 → s.alias? al = none → exec i s = .next (s.replied 0xC0 tag [6])) ∧
      ∀ (e : AliasEntry) (before after : List Place) (p : Place) (x : Tester), s.HasAlias al e →
        e.members = before ++ p :: after → s.tester p = x →
        (∀ q ∈ before, (s.station q).state = .online ∧ (s.station q).kind = some .tester ∧
          (s.tester q).opState = .idle ∧ (s.tester q).outstanding = none ∧ (s.tester q).next = none ∧
          (s.tester q).loadError = false ∧ (s.tester q).eraseError = false ∧ k.val < (s.tester q).protectFloor ∧
          ((s.tester q).slot k).locked = false ∧ ((s.tester q).slot k).state = .empty) →
        ((s.station p).state = .absent → exec i s = .next (s.replied 0xC0 tag [13])) ∧
        ((s.station p).state = .joining ∨ (s.station p).state = .lost → exec i s = .next (s.replied 0xC0 tag [14])) ∧
        ((s.station p).state = .online →
          ((s.station p).kind = some .handler → exec i s = .next (s.replied 0xC0 tag [15])) ∧
          ((s.station p).kind = some .tester →
            (x.opState ≠ .idle ∨ x.outstanding ≠ none ∨ x.next ≠ none → exec i s = .next (s.replied 0xC0 tag [19])) ∧
            (x.opState = .idle → x.outstanding = none → x.next = none →
              (x.loadError = true ∨ x.eraseError = true → exec i s = .next (s.replied 0xC0 tag [20])) ∧
              (x.loadError = false → x.eraseError = false →
                (x.protectFloor ≤ k.val → exec i s = .next (s.replied 0xC0 tag [22])) ∧
                (k.val < x.protectFloor →
                  ((x.slot k).locked = true → exec i s = .next (s.replied 0xC0 tag [21])) ∧
                  ((x.slot k).locked = false → (x.slot k).state ≠ .empty →
                    exec i s = .next (s.replied 0xC0 tag [9])))))))) ∧
  (∀ (t : TrunkNo) (a : AddrIx) (st : Station) (f : InFlight) (k : SlotNo) (id rev : Nat) (x : Tester) (o : Operation) (s : State),
    s.Polled t a → s.station (placeOf t a) = st → st.state = .online → st.inFlight = some f →
    f.command = .slotCommand .load k id rev → s.tester (placeOf t a) = x →
    x.outstanding = some { op := .load, slot := k, awaited := true } → x.next = none → x.readiness = none →
    x.opState = .loading → x.operation = some o → o.slot = k →
    ∀ (status p1 p0 r c3 c2 c1 c0 outcome : Byte) (report : List Byte) (carried : ProgramId) (y : Slot),
      carried = { id := be16 p1 p0, revision := r.toNat, check := BitVec.ofNat 32 (be32 c3 c2 c1 c0) } →
      ((status = 4 ∧ report = [0x31] ++ u8 k.val ++ [p1, p0, r, c3, c2, c1, c0] ∧
          if carried = o.expected then
            outcome = 0 ∧ y = { x.slot k with
              state := .verified, program := some (o.expected.id, o.expected.revision), check := some o.expected.check
              lastSelected := none }
          else
            outcome = 1 ∧ y = { x.slot k with
              state := .fault, program := some (carried.id, carried.revision), check := some carried.check }) ∨
        ((status = 4 ∧ outcome = 6 ∨ status = 8 ∧ outcome = 2) ∧ report = [] ∧
          y = { x.slot k with
            state := .fault, program := some (o.expected.id, o.expected.revision), check := none })) →
      ∃ u : State, s.Answers t a status report u ∧
        u = { s.setStation (placeOf t a) { st.heard with inFlight := none } with
          testers := s.testers.set (placeOf t a) { x with
            opState := .idle, operation := none, outstanding := none, loadError := x.loadError || outcome != 0
            slots := x.slots.set k y }
          evalPending := s.evalPending || s.committed, events := u.events, discards := u.discards } ∧
        if o.reported = true then
          s.Posted u .loadResult (BitVec.ofNat 32 (placeOf t a).val)
            (u8 k.val ++ [outcome] ++ u8 (match o.origin with | .host => 0 | .dispatch => 1) ++ u16 o.expected.id ++
              u8 o.expected.revision ++ u8 o.members)
        else u.events = s.events ∧ u.discards = s.discards) ∧
  ∀ (t : TrunkNo) (a : AddrIx) (p : Place) (st : Station) (k : SlotNo) (id rev : Nat) (x : Tester) (o : Operation) (s : State),
    s.Polled t a → p = placeOf t a → s.station p = st → st.state = .online → st.kind = some .tester → s.isDocked p = false →
    st.queue = [.slotCommand .load k id rev] → st.inFlight = none → s.tester p = x →
    x.outstanding = some { op := .load, slot := k, awaited := true } → x.next = none → x.readiness = none →
    x.opState = .loading → x.operation = some o → o.slot = k → o.reported = true →
    ∀ y : Slot, y = { x.slot k with
      state := .fault, program := some (o.expected.id, o.expected.revision), check := none } →
    (∀ result, result = (fun outcome : Byte => u8 k.val ++ [outcome] ++
        u8 (match o.origin with | .host => 0 | .dispatch => 1) ++ u16 o.expected.id ++ u8 o.expected.revision ++ u8 o.members) →
      (st.freshAck = false →
        ∃ v u : State, s.Answers t a 1 [] u ∧
          v = { s.setStation p { st.heard with freshAck := true, lateEnd := none } with
            events := v.events, discards := v.discards } ∧
          s.Posted v .stationRestart (BitVec.ofNat 32 p.val) [2, 0] ∧
          u = { v with
            testers := s.testers.set p { x with
              opState := .idle, operation := none, loadError := true, selected := none
              outstanding := some { op := .load, slot := k, awaited := false }, slots := (u.tester p).slots }
            evalPending := s.evalPending || s.committed, events := u.events, discards := u.discards } ∧
          (∀ j, (u.tester p).slot j =
            if j = k then y
            else { x.slot j with state := if (x.slot j).state = .verified then .stale else (x.slot j).state }) ∧
          v.Posted u .loadResult (BitVec.ofNat 32 p.val) (result 5)) ∧
      (st.misses = 2 →
        ∃ v u : State, exec (.pollMiss t) s = .next u ∧
          v = { s.setStation p { st with
              state := .lost, misses := 3, freshAck := false, queue := [], inFlight := none, lateEnd := none } with
            trunks := u.trunks, events := v.events, discards := v.discards } ∧ s.PollEnds u t ∧
          s.Posted v .stationLost (BitVec.ofNat 32 p.val) [1] ∧
          u = { v with
            testers := s.testers.set p { x with
              opState := .idle, operation := none, loadError := true, outstanding := none, slots := x.slots.set k y }
            evalPending := s.evalPending || s.committed, events := u.events, discards := u.discards } ∧
          v.Posted u .loadResult (BitVec.ofNat 32 p.val) (result 4)))

/-- R105, R106, R110: ERASE SLOT, VERIFY SLOT and PURGE TESTER start their operation on an ONLINE quiet tester; a purge that
finds no slot to erase ends at once with PURGE_DONE. Otherwise each is refused by the first of its checks that fails: STATION_LOST,
TESTER_BUSY, TESTER_ERROR_SET, PROTECTED, ALREADY or WRONG_STATE, LOCKED, IN_USE. R99, R105, R106: the ends of the host's ERASE and
VERIFY, done or failed, with the slot, the error flag and the event they leave. R107, R112: a done SELECT writes the selected slot
also where it is no longer awaited, and answers its readiness request ready; a failed one takes effect only where it is awaited.
R110: a done ERASE of a purge goes on to the next slot that the purge takes, and PURGE_DONE follows the last; a failed one ends the
purge, and PURGE_DONE names the slot and the outcome. R112: in a readiness plan a done VERIFY or LOAD is followed by SELECT and a
done ERASE by LOAD, and a failed command cancels the assignment with PROGRAM_FAILED; a first command that has waited while an
operation ran starts from a plan computed afresh, and one that has waited for a SELECT alone as it stands (but for the ERASE of a
slot locked meanwhile, log 22). -/
def Obligations.SlotOperationsStart : Prop :=
  (∀ (tag al slot : Byte) (k : SlotNo) (p : Place) (s : State), s.Listening → slot.toNat = k.val → s.TesterAlias al p →
    (s.station p).state = .online →
    ((s.tester p).opState ≠ .idle ∨ (s.tester p).outstanding ≠ none ∨ (s.tester p).next ≠ none →
      exec (.eraseSlot tag al slot) s = .next (s.replied 0xC1 tag [19]) ∧
      exec (.verifySlot tag al slot) s = .next (s.replied 0xC2 tag [19]) ∧
      exec (.purgeTester tag al) s = .next (s.replied 0xC5 tag [19])) ∧
    ((s.tester p).opState = .idle → (s.tester p).outstanding = none → (s.tester p).next = none →
      ((s.tester p).loadError = true ∨ (s.tester p).eraseError = true →
        exec (.eraseSlot tag al slot) s = .next (s.replied 0xC1 tag [20]) ∧
        exec (.purgeTester tag al) s = .next (s.replied 0xC5 tag [20])) ∧
      ((s.station p).queued .internal = false → k.val < (s.tester p).protectFloor →
        ((s.tester p).selected = some k → ∀ c d, (s.cell c).dock = some d → d.tester = p →
          (s.cell c).state ≠ .preparing ∧ (s.cell c).state ≠ .running) →
        ((s.tester p).loadError = false → (s.tester p).eraseError = false → ((s.tester p).slot k).state ≠ .empty →
          ((s.tester p).slot k).locked = false ∨ (s.tester p).lockOverride = true →
          ∃ op : Operation, op.slot = k ∧ op.origin = .host ∧ op.reported = true ∧
            exec (.eraseSlot tag al slot) s = .next ({ s with
              stations := s.stations.set p { s.station p with
                queue := (s.station p).queue ++ [Command.slotCommand .erase k 0 0] }
              testers := s.testers.set p { s.tester p with
                opState := .erasing, operation := some op
                outstanding := some { op := .erase, slot := k, awaited := true }
                slots := (s.tester p).slots.set k { (s.tester p).slot k with state := .erasing } } }.replied 0xC1 tag [1])) ∧
        (∀ id rev check, ((s.tester p).slot k).state = .stale ∨ ((s.tester p).slot k).state = .verified →
          ((s.tester p).slot k).program = some (id, rev) → ((s.tester p).slot k).check = some check →
          ∃ op : Operation, op.slot = k ∧ op.origin = .host ∧ op.reported = true ∧
            op.expected = { id := id, revision := rev, check := check } ∧
            exec (.verifySlot tag al slot) s = .next ({ s with
              stations := s.stations.set p { s.station p with
                queue := (s.station p).queue ++ [Command.slotCommand .verify k 0 0] }
              testers := s.testers.set p { s.tester p with
                opState := .verifying, operation := some op
                outstanding := some { op := .verify, slot := k, awaited := true } } }.replied 0xC2 tag [1]))) ∧
      ((s.tester p).loadError = false → (s.tester p).eraseError = false →
        ((∀ j : SlotNo, j.val < (s.tester p).protectFloor → ((s.tester p).slot j).state = .empty ∨
            ((s.tester p).slot j).locked = true ∧ (s.tester p).lockOverride = false) →
          ∃ u : State, exec (.purgeTester tag al) s = .next (u.replied 0xC5 tag [1]) ∧
            u = { s with
              testers := s.testers.set p { s.tester p with opState := .idle, operation := none }
              evalPending := s.evalPending || s.committed, events := u.events, discards := u.discards } ∧
            s.Posted u .purgeDone (BitVec.ofNat 32 p.val) [0, 255, 0]) ∧
        ((s.station p).queued .internal = false → k.val < (s.tester p).protectFloor → ((s.tester p).slot k).state ≠ .empty →
          ((s.tester p).selected = some k → ∀ c d, (s.cell c).dock = some d → d.tester = p →
            (s.cell c).state ≠ .preparing ∧ (s.cell c).state ≠ .running) →
          ((s.tester p).slot k).locked = false ∨ (s.tester p).lockOverride = true →
          (∀ j : SlotNo, j < k → ((s.tester p).slot j).state = .empty ∨
            ((s.tester p).slot j).locked = true ∧ (s.tester p).lockOverride = false) →
          ∃ op : Operation, op.slot = k ∧ op.origin = .host ∧ op.erased = 0 ∧
            exec (.purgeTester tag al) s = .next ({ s with
              stations := s.stations.set p { s.station p with
                queue := (s.station p).queue ++ [Command.slotCommand .erase k 0 0] }
              testers := s.testers.set p { s.tester p with
                opState := .purging, operation := some op
                outstanding := some { op := .erase, slot := k, awaited := true }
                slots := (s.tester p).slots.set k { (s.tester p).slot k with state := .erasing } } }.replied 0xC5 tag [1]))))) ∧
  (∀ (tag al slot : Byte) (k : SlotNo) (p : Place) (x : Tester) (y : Slot) (s : State), s.Listening → slot.toNat = k.val →
    s.TesterAlias al p → s.tester p = x → x.slot k = y →
    ((s.station p).state ≠ .online →
      exec (.eraseSlot tag al slot) s = .next (s.replied 0xC1 tag [14]) ∧
      exec (.verifySlot tag al slot) s = .next (s.replied 0xC2 tag [14]) ∧
      exec (.purgeTester tag al) s = .next (s.replied 0xC5 tag [14])) ∧
    ((s.station p).state = .online → x.opState = .idle → x.outstanding = none → x.next = none →
      (x.protectFloor ≤ k.val →
        (x.loadError = false → x.eraseError = false → exec (.eraseSlot tag al slot) s = .next (s.replied 0xC1 tag [22])) ∧
        exec (.verifySlot tag al slot) s = .next (s.replied 0xC2 tag [22])) ∧
      (k.val < x.protectFloor →
        (x.loadError = false → x.eraseError = false →
          (y.state = .empty → exec (.eraseSlot tag al slot) s = .next (s.replied 0xC1 tag [31])) ∧
          (y.state ≠ .empty → y.locked = true → x.lockOverride = false →
            exec (.eraseSlot tag al slot) s = .next (s.replied 0xC1 tag [21]))) ∧
        (y.state ≠ .stale → y.state ≠ .verified → exec (.verifySlot tag al slot) s = .next (s.replied 0xC2 tag [9])) ∧
        ∀ c d, x.selected = some k → (s.cell c).dock = some d → d.tester = p →
          (∀ c' d', (s.cell c').dock = some d' → d'.tester = p → c' = c) →
          (s.cell c).state = .preparing ∨ (s.cell c).state = .running →
          (x.loadError = false → x.eraseError = false → y.state ≠ .empty → y.locked = false ∨ x.lockOverride = true →
            exec (.eraseSlot tag al slot) s = .next (s.replied 0xC1 tag [12])) ∧
          (y.state = .stale ∨ y.state = .verified →
            exec (.verifySlot tag al slot) s = .next (s.replied 0xC2 tag [12]))))) ∧
  (∀ (t : TrunkNo) (a : AddrIx) (st : Station) (f : InFlight) (k : SlotNo) (id rev : Nat) (op : TesterOp) (awaited : Bool)
      (x : Tester) (heard s : State),
    s.Polled t a → s.station (placeOf t a) = st → st.state = .online → st.inFlight = some f →
    f.command = .slotCommand op k id rev → s.tester (placeOf t a) = x →
    x.outstanding = some { op := op, slot := k, awaited := awaited } → x.next = none →
    heard = s.setStation (placeOf t a) { st.heard with inFlight := none } →
    (∀ o, awaited = true → x.readiness = none → x.operation = some o → o.slot = k → o.origin = .host → o.reported = true →
      (op = .erase → x.opState = .erasing → ∀ (status outcome : Byte) (y : Slot) (selected : Option SlotNo),
        (status = 4 ∧ outcome = 0 ∧ y = { state := .empty, program := none, check := none, locked := false, lastSelected := none } ∧
            selected = (if x.selected = some k then none else x.selected) ∨
          status = 8 ∧ outcome = 2 ∧ y = { x.slot k with state := .fault } ∧ selected = x.selected) →
        ∃ u : State, s.Answers t a status [] u ∧
          u = { heard with
            testers := s.testers.set (placeOf t a) { x with
              opState := .idle, operation := none, outstanding := none, eraseError := x.eraseError || outcome != 0
              selected := selected, slots := x.slots.set k y }
            evalPending := s.evalPending || s.committed, events := u.events, discards := u.discards } ∧
          s.Posted u .eraseResult (BitVec.ofNat 32 (placeOf t a).val) (u8 k.val ++ [outcome, 0] ++ flag y.locked)) ∧
      (op = .verify → x.opState = .verifying →
        ∀ (status r outcome : Byte) (pid : BitVec 16) (chk : BitVec 32) (report : List Byte) (state : SlotState),
        (status = 4 ∧ report = [0x31] ++ u8 k.val ++ u16 pid.toNat ++ [r] ++ u32 chk.toNat ∧
            o.expected = { id := pid.toNat, revision := r.toNat, check := chk } ∧ outcome = 0 ∧ state = .verified ∨
          status = 8 ∧ report = [] ∧ outcome = 2 ∧ state = .fault) →
        ∃ u : State, s.Answers t a status report u ∧
          u = { heard with
            testers := s.testers.set (placeOf t a) { x with
              opState := .idle, operation := none, outstanding := none, loadError := x.loadError || outcome != 0
              slots := x.slots.set k { x.slot k with state := state } }
            evalPending := s.evalPending || s.committed, events := u.events, discards := u.discards } ∧
          s.Posted u .verifyResult (BitVec.ofNat 32 (placeOf t a).val) (u8 k.val ++ [outcome, 0]))) ∧
    (op = .select → ∀ selected : Tester,
      selected = { x with
        selected := some k, outstanding := none, slots := x.slots.set k { x.slot k with lastSelected := some s.tick } } →
      (awaited = false →
        s.Answers t a 4 [] { heard with testers := s.testers.set (placeOf t a) selected } ∧
        s.Answers t a 8 [] { heard with testers := s.testers.set (placeOf t a) { x with outstanding := none } }) ∧
      ∀ (r : Readiness) (d : Dock) (z : Cell) (w : Work) (l : Lot), awaited = true → x.opState = .idle →
        x.readiness = some r → r.stage = .select → s.cell r.cell = z → z.state = .preparing → z.dock = some d → d.tester = placeOf t a →
        (∀ q, z.prep = some q → q.soakStart = none →
          s.Answers t a 4 [] { heard with
            testers := s.testers.set (placeOf t a) { selected with readiness := none }
            cells := s.cells.set r.cell { z with prep := some { q with programDone := true } } }) ∧
        (z.work = some w → s.HasLot w.lot l →
          ∃ u : State, s.Answers t a 8 [] u ∧
            { heard with
              testers := s.testers.set (placeOf t a) { x with
                outstanding := none, readiness := none, selected := none, loadError := true } }.Cancelled u r.cell d w l 6))) ∧
  (∀ (t : TrunkNo) (a : AddrIx) (p : Place) (st : Station) (f : InFlight) (k : SlotNo) (id rev : Nat) (x y : Tester)
      (o : Operation) (heard s : State),
    s.Polled t a → p = placeOf t a → s.station p = st → st.state = .online → st.inFlight = some f →
    f.command = .slotCommand .erase k id rev → s.tester p = x → x.outstanding = some { op := .erase, slot := k, awaited := true } →
    x.next = none → x.readiness = none → x.opState = .purging → x.operation = some o → o.slot = k → o.handled = some k →
    (∀ c d c' d', (s.cell c).dock = some d → (s.cell c').dock = some d' → d.tester = p → d'.tester = p → c = c') →
    heard = s.setStation p { st.heard with inFlight := none } → y = x.operationEnded .erase o false →
    (∀ j : SlotNo, k < j → s.PurgeTakes p y j → (∀ i, k < i → i < j → ¬ s.PurgeTakes p y i) → st.queued .internal = false →
      s.Answers t a 4 [] { heard with
        testers := s.testers.set p { y with
          opState := .purging, operation := some { o with erased := o.erased + 1, slot := j, handled := some j }
          outstanding := some { op := .erase, slot := j, awaited := true }
          slots := y.slots.set j { y.slot j with state := .erasing } }
        stations := heard.stations.set p { heard.station p with queue := st.queue ++ [.slotCommand .erase j 0 0] } }) ∧
    ∀ (status : Byte) (z : Tester) (detail : List Byte),
      ((∀ j : SlotNo, k < j → ¬ s.PurgeTakes p y j) ∧ status = 4 ∧ z = y ∧ detail = u8 (o.erased + 1) ++ [255, 0] ∨
        status = 8 ∧ z = x.operationEnded .erase o true ∧ detail = u8 o.erased ++ u8 k.val ++ [2]) →
      ∃ u : State, s.Answers t a status [] u ∧
        u = { heard with
          testers := s.testers.set p z, evalPending := s.evalPending || s.committed
          events := u.events, discards := u.discards } ∧
        s.Posted u .purgeDone (BitVec.ofNat 32 p.val) detail) ∧
  (∀ (t : TrunkNo) (a : AddrIx) (p : Place) (st : Station) (f : InFlight) (k : SlotNo) (id rev : Nat) (op : TesterOp)
      (x y : Tester) (o : Operation) (r : Readiness) (status q : Byte) (failed : Bool) (pid : BitVec 16) (chk : BitVec 32)
      (report : List Byte) (heard s : State),
    s.Polled t a → p = placeOf t a → s.station p = st → st.state = .online → st.inFlight = some f →
    f.command = .slotCommand op k id rev → s.tester p = x → x.outstanding = some { op := op, slot := k, awaited := true } →
    x.operation = some o → o.slot = k → o.reported = true → x.readiness = some r →
    o.expected = { id := pid.toNat, revision := q.toNat, check := chk } →
    (op = .load ∧ x.opState = .loading ∨ op = .verify ∧ x.opState = .verifying ∨ op = .erase ∧ x.opState = .erasing) →
    (failed = false ∧ status = 4 ∧
        report = (if op = .erase then [] else [0x31] ++ u8 k.val ++ u16 pid.toNat ++ [q] ++ u32 chk.toNat) ∨
      failed = true ∧ status = 8 ∧ report = []) →
    heard = s.setStation p { st.heard with inFlight := none } → y = x.operationEnded op o failed →
    ∃ v u : State, s.Answers t a status report u ∧
      v = { heard with
        testers := s.testers.set p y, events := v.events, discards := v.discards
        evalPending := if op = .erase ∧ failed = false ∧ o.origin = .dispatch ∧ x.next = none ∧ r.stage = op then s.evalPending
          else s.evalPending || s.committed } ∧
      s.Posted v (resultEvent x op o (if failed then 2 else 0)).1 (BitVec.ofNat 32 p.val)
        (resultEvent x op o (if failed then 2 else 0)).2 ∧
      v.PlanGoesOn u p op x y o r failed) ∧
  ∀ (t : TrunkNo) (a : AddrIx) (p : Place) (st : Station) (f : InFlight) (k : SlotNo) (id rev : Nat) (x : Tester)
      (n : NextCommand) (r : Readiness) (heard s : State),
    s.Polled t a → p = placeOf t a → s.station p = st → st.state = .online → st.inFlight = some f →
    f.command = .slotCommand .select k id rev → s.tester p = x → x.outstanding = some { op := .select, slot := k, awaited := false } →
    x.next = some n → x.readiness = some r → n.afterOp = false → st.queued .internal = false →
    (n.op = .erase → (x.slot n.slot).locked = false ∨ x.lockOverride = true) →
    heard = s.setStation p { st.heard with inFlight := none } →
    ∃ u : State, s.Answers t a 8 [] u ∧
      { heard with testers := s.testers.set p { x with outstanding := none, next := none } }.StageOffered u p n.op n.slot r.program

/-- R108, R109, R100, R101: QUALIFY SLOT locks a VERIFIED slot; SET LOCK OVERRIDE and SET PROTECT FLOOR write a quiet tester, the
floor once; CLEAR TESTER ERRORS clears both error flags and is a trigger of evaluation. -/
def Obligations.LocksAndFlagsAreWritten : Prop :=
  ∀ (tag al slot value : Byte) (k : SlotNo) (p : Place) (s : State), s.Listening → slot.toNat = k.val → s.TesterAlias al p →
    (((s.tester p).slot k).state ≠ .verified → exec (.qualifySlot tag al slot) s = .next (s.replied 0xC3 tag [9])) ∧
    (((s.tester p).slot k).state = .verified →
      exec (.qualifySlot tag al slot) s =
        if ((s.tester p).slot k).locked = true then .next (s.replied 0xC3 tag [31])
        else .next ((s.setTester p { s.tester p with
          slots := (s.tester p).slots.set k { (s.tester p).slot k with locked := true } }).replied 0xC3 tag [0])) ∧
    ((s.tester p).floorWritten = true → exec (.setProtectFloor tag al value) s = .next (s.replied 0xC6 tag [10])) ∧
    ((s.tester p).opState ≠ .idle ∨ (s.tester p).outstanding ≠ none ∨ (s.tester p).next ≠ none →
      exec (.setLockOverride tag al value) s = .next (s.replied 0xC4 tag [19]) ∧
      ((s.tester p).floorWritten = false → exec (.setProtectFloor tag al value) s = .next (s.replied 0xC6 tag [19]))) ∧
    ((s.tester p).opState = .idle → (s.tester p).outstanding = none → (s.tester p).next = none →
      exec (.setLockOverride tag al value) s = .next ((s.setTester p
        { s.tester p with lockOverride := decide (value ≠ 0) }).replied 0xC4 tag [0, if value = 0 then 0 else 1]) ∧
      ((s.tester p).floorWritten = false →
        exec (.setProtectFloor tag al value) s = .next ((s.setTester p
          { s.tester p with protectFloor := min 8 value.toNat, floorWritten := true }).replied 0xC6 tag
            ([0] ++ u8 (min 8 value.toNat))))) ∧
    ((s.tester p).loadError = false → (s.tester p).eraseError = false →
      exec (.clearTesterErrors tag al) s = .next (s.replied 0xC7 tag [31])) ∧
    ((s.tester p).loadError = true ∨ (s.tester p).eraseError = true →
      exec (.clearTesterErrors tag al) s = .next ({ s with
        testers := s.testers.set p { s.tester p with loadError := false, eraseError := false }
        evalPending := s.evalPending || s.committed }.replied 0xC7 tag
          [0, if (s.tester p).loadError = true then 1 else 0, if (s.tester p).eraseError = true then 1 else 0]))

/-- R78, R116: READ CELL answers the fields of R78 in order, those of an EMPTY cell as at reset, and READ TESTER those of R116;
neither changes anything else. Presence fields and widths that the rules leave open, the place of the two station states and a
phase deadline given as the tick of its expiry are the model's choice (log 5), and the code of a plan is a free value (log 6). -/
def Obligations.CellsAndTestersAreRead : Prop :=
  ∀ (tag : Byte) (s : State), s.Listening →
    let place : StationState → List Byte := fun x =>
      u8 (match x with | .absent => 0 | .joining => 1 | .online => 2 | .lost => 3)
    (∀ (cell : Byte) (c : CellNo) (x : Cell), cell.toNat = c.val → s.cell c = x →
      (x.state = .empty → exec (.readCell tag cell) s = .next (s.replied 0xBA tag ([0, 0] ++ List.replicate 40 0))) ∧
      ∀ d, x.state ≠ .empty → x.dock = some d →
        exec (.readCell tag cell) s = .next (s.replied 0xBA tag
          (([0] : List Byte) ++
            u8 (match x.state with
              | .empty => 0 | .idle => 1 | .setup => 2 | .preparing => 3 | .running => 4 | .stopping => 5
              | .faulted => 6) ++
            (u8 d.handler.val ++ [d.handlerAlias] ++ place (s.station d.handler).state) ++
            (u8 d.tester.val ++ [d.testerAlias] ++ place (s.station d.tester).state) ++ u8 d.kit ++
            optional 2 i16 x.commanded ++ optional 6 (fun y : Int × Tick => i16 y.1 ++ u32 y.2.toNat) x.lastTemp ++
            u16 d.recovery ++ optional 5 (fun w : Work => u32 w.lot.toNat ++ u8 w.step) x.work ++
            (match x.prep with
              | some q => flag q.setpointDone ++ flag q.programDone ++ optional 4 (fun y : Tick => u32 y.toNat) q.soakStart
              | none => List.replicate 7 0) ++
            optional 2 u16 x.insertion ++
            optional 4 (fun y : Deadline => u32 (y.start + BitVec.ofNat 32 y.span).toNat) x.phaseDeadline))) ∧
    (∀ cell : Byte, 16 ≤ cell.toNat →
      exec (.readCell tag cell) s = .next (s.replied 0xBA tag [5]) ∧
      exec (.resetCell tag cell) s = .next (s.replied 0xBB tag [5]) ∧
      exec (.undockCell tag cell) s = .next (s.replied 0xB9 tag [5]) ∧
      ∀ ha ta, exec (.dockCell tag cell ha ta) s = .next (s.replied 0xB8 tag [5])) ∧
    ∀ (al : Byte) (p : Place) (x : Tester), s.TesterAlias al p → s.tester p = x →
      let command : TesterOp → List Byte := fun op =>
        u8 (match op with | .load => 0x41 | .erase => 0x42 | .verify => 0x43 | .select => 0x44)
      exec (.readTester tag al) s = .next (s.replied 0xC8 tag
        (([0] : List Byte) ++ u8 p.val ++ place (s.station p).state ++
          u8 (match x.opState with | .idle => 0 | .loading => 1 | .erasing => 2 | .verifying => 3 | .purging => 4) ++
          (match x.operation with
            | some o => u8 o.slot.val ++ u8 (match o.origin with | .host => 0 | .dispatch => 1) ++
                u8 (if x.opState = .purging then o.erased else 0)
            | none => [0, 0, 0]) ++
          flag x.loadError ++ flag x.eraseError ++ flag x.lockOverride ++ u8 x.protectFloor ++ flag x.floorWritten ++
          optional 1 (fun k : SlotNo => u8 k.val) x.selected ++ optional 1 (fun o : OutCommand => command o.op) x.outstanding ++
          optional 1 (fun o : NextCommand => command o.op) x.next ++
          (match x.readiness with
            | some r => [1] ++ u8 r.cell.val ++ [Config.planCode r.plan.index]
            | none => [0, 0, 0]) ++
          x.slots.toList.flatMap fun (y : Slot) =>
            u8 (match y.state with
              | .empty => 0 | .loading => 1 | .erasing => 2 | .verified => 3 | .stale => 4 | .fault => 5) ++
            optional 2 (fun i : Nat × Nat => u16 i.1) y.program ++ optional 1 (fun i : Nat × Nat => u8 i.2) y.program ++
            optional 4 (fun i : BitVec 32 => u32 i.toNat) y.check ++ flag y.locked ++
            optional 4 (fun i : Tick => u32 i.toNat) y.lastSelected))

/-! ### Dispatch (Chapter 7) -/

/-- R118, R125: the evaluation order holds the queued lots by effective class, then stamp, then number; the best cell of a step
has the lowest changeover class, then the smallest setpoint distance, then the lowest number, of the free cells on which the
step is not ineligible. R123, R124: the changeover class is the largest of the program, kit and temperature components, and
ineligible where the tester has no plan. R111: the readiness plan is the first row that applies, with its slot. R122: a cell is
dispatchable where it is IDLE with its recovery timer at 0, both its places are ONLINE and its tester's operation state is IDLE. -/
def Obligations.CandidatesAreArbitrated : Prop :=
  (∀ s : State,
    (s.evalOrder.Perm (s.dispatchQueue.filterMap s.lot?) ∧
      ∀ cls : Lot → Nat, (∀ l, cls l = l.priority - elapsed s.tick l.enqueueTick / s.policy.ageStep) →
        s.evalOrder.Pairwise fun a b => cls a < cls b ∨ cls a = cls b ∧
          (a.stamp.toNat < b.stamp.toNat ∨ a.stamp = b.stamp ∧ a.number.toNat ≤ b.number.toNat)) ∧
    ∀ (st : RouteStep) (free : List CellNo), free.Pairwise (fun a b => a < b) →
      (s.bestCell st free = none ↔ ∀ c ∈ free, s.changeover c st = none) ∧
      ∀ o, s.bestCell st free = some o →
        o.cell ∈ free ∧ s.changeover o.cell st = some o.cls ∧ o.distance = setpointDistance (s.cell o.cell) st ∧
        ∀ c ∈ free, ∀ k, s.changeover c st = some k →
          o.cls < k ∨ o.cls = k ∧ (o.distance < setpointDistance (s.cell c) st ∨
            o.distance = setpointDistance (s.cell c) st ∧ o.cell ≤ c)) ∧
  (∀ (c : CellNo) (s : State), s.dispatchable c = true ↔ ∃ d, (s.cell c).dock = some d ∧ (s.cell c).state = .idle ∧
    d.recovery = 0 ∧ (s.station d.handler).state = .online ∧ (s.station d.tester).state = .online ∧
    (s.tester d.tester).opState = .idle) ∧
  (∀ (c : CellNo) (x : Cell) (st : RouteStep) (s : State), s.cell c = x →
    (x.dock = none → s.changeover c st = none) ∧
    (∀ d, x.dock = some d → s.changeover c st =
      ((s.tester d.tester).plan st.program s.tick).map fun plan =>
        max (match plan with | .select _ => 0 | .verify _ => 2 | .load _ => 2 | .eraseLoad _ => 2)
          (max (if d.kit = st.kit then 0 else 3)
            (match x.commanded, x.lastTemp with
              | some z, some (y, _) =>
                if (st.setpoint - z).natAbs ≤ st.window ∧ (st.setpoint - y).natAbs ≤ st.window then 0 else 1
              | _, _ => 1))) ∧
    setpointDistance x st = match x.commanded with | some z => (st.setpoint - z).natAbs | none => 4000) ∧
  ∀ (x : Tester) (id : ProgramId) (now : Tick) (fits stale empty evict : SlotNo → Prop) (older : SlotNo → SlotNo → Prop),
    (∀ k, fits k ↔ (x.slot k).state = .verified ∧ (x.slot k).program = some (id.id, id.revision) ∧
      (x.slot k).check = some id.check) →
    (∀ k, stale k ↔ k.val < x.protectFloor ∧ (x.slot k).state = .stale ∧ (x.slot k).program = some (id.id, id.revision) ∧
      (x.slot k).check = some id.check) →
    (∀ k, empty k ↔ k.val < x.protectFloor ∧ (x.slot k).state = .empty) →
    (∀ k, evict k ↔ k.val < x.protectFloor ∧ (x.slot k).locked = false ∧ (x.slot k).state ≠ .empty ∧ x.selected ≠ some k) →
    (∀ j k, older j k ↔ match (x.slot j).lastSelected, (x.slot k).lastSelected with
      | none, some _ => True
      | some u, some v => elapsed now v < elapsed now u
      | _, none => False) →
    ∀ k : SlotNo,
      (x.plan id now = some (.select k) ↔ fits k ∧
        (x.selected = some k ∨ (∀ j, x.selected = some j → ¬ fits j) ∧ ∀ j, j < k → ¬ fits j)) ∧
      (x.plan id now = some (.verify k) ↔ (∀ j, ¬ fits j) ∧ x.loadError = false ∧ x.eraseError = false ∧ stale k ∧
        ∀ j, j < k → ¬ stale j) ∧
      (x.plan id now = some (.load k) ↔ (∀ j, ¬ fits j ∧ ¬ stale j) ∧ x.loadError = false ∧ x.eraseError = false ∧ empty k ∧
        ∀ j, j < k → ¬ empty j) ∧
      (x.plan id now = some (.eraseLoad k) ↔ (∀ j, ¬ fits j ∧ ¬ stale j ∧ ¬ empty j) ∧ x.loadError = false ∧
        x.eraseError = false ∧ evict k ∧ (∀ j, evict j → ¬ older j k) ∧ ∀ j, j < k → evict j → older k j)

/-- R120, R121, R122, R126, R127: DISPATCH_EVALUATION takes the pending evaluation. It touches no cell that is not dispatchable and
no lot that is not among the first LOOKAHEAD of the order. A lone candidate whose best cell is of class 3 is assigned and its
cell enters SETUP; one whose best cell is of class 0, at the setpoint already, is assigned and its cell enters PREPARING with a
SELECT offered to the tester. R83, R85, R112, R125: for any number of candidates, the walk offers each in the evaluation order the
dispatchable cells that no earlier one has taken (`State.Walked`): one without a best cell is skipped, and so is one other than the
head whose best cell is of class 3, which stays free. Each taken cell of class 3 enters SETUP, each other PREPARING, with SET
SETPOINT offered where the commanded setpoint is not the step's (its reference is the model's own, log 3) and the first command of
the readiness plan, SELECT, VERIFY, LOAD or ERASE, offered or waiting (`State.Takes`, `State.EntersPreparing`). -/
def Obligations.EvaluationAssigns : Prop :=
  ∀ s : State, s.inReset = none → s.evalPending = true →
    ∃ t, exec .dispatchEvaluation s = .next t ∧
      t = { s with
        evalPending := t.evalPending, cells := t.cells, lots := t.lots, testers := t.testers, stations := t.stations
        dispatchQueue := t.dispatchQueue, nextRef := t.nextRef, events := t.events, discards := t.discards } ∧
      (∀ c, s.dispatchable c = false → t.cell c = s.cell c) ∧
      (∀ n, (∀ l ∈ s.evalOrder.take s.policy.lookahead, l.number ≠ n) → t.lot? n = s.lot? n) ∧
      ((∀ l ∈ s.evalOrder.take s.policy.lookahead, ∀ st, l.stepAt l.currentStep = some st →
          ∀ c, s.dispatchable c = true → s.changeover c st = none) → t = { s with evalPending := false }) ∧
      State.Walked true (s.evalOrder.take s.policy.lookahead) (allCells.filter s.dispatchable)
        { s with evalPending := false } t ∧
      ∀ (n : LotNo) (l : Lot) (st : RouteStep) (o : Offer) (d : Dock), s.dispatchQueue = [n] → s.lot? n = some l →
        1 ≤ s.policy.lookahead → l.stepAt l.currentStep = some st → (s.cell o.cell).dock = some d →
        s.bestCell st (allCells.filter s.dispatchable) = some o →
        (o.cls = 3 →
          t = { s with
            evalPending := false, dispatchQueue := []
            lots := s.lots.map fun (x : Lot) =>
              if x.number = n then { x with state := .assigned, cell := some o.cell } else x
            cells := s.cells.set o.cell { s.cell o.cell with
              state := .setup, work := some { lot := n, step := l.currentStep }
              phaseDeadline := some { start := s.tick, span := s.policy.setupTimeout } }
            events := t.events, discards := t.discards } ∧
          (s.events.length + 2 ≤ 64 → t.events = s.events ++
            [{ kind := .assigned, tick := s.tick, subject := n
               detail := u8 o.cell.val ++ u8 l.currentStep ++ [3] ++
                 u8 (l.priority - elapsed s.tick l.enqueueTick / s.policy.ageStep) ++ u16 o.distance },
             { kind := .kitNeeded, tick := s.tick, subject := BitVec.ofNat 32 o.cell.val
               detail := u32 n.toNat ++ u8 l.currentStep ++ u8 st.kit ++ u8 d.kit }])) ∧
        ∀ k : SlotNo, o.cls = 0 → (s.cell o.cell).commanded = some st.setpoint →
          (s.tester d.tester).plan st.program s.tick = some (.select k) → (s.tester d.tester).outstanding = none →
          (s.station d.tester).queued .internal = false →
          t = { s with
            evalPending := false, dispatchQueue := []
            lots := s.lots.map fun (x : Lot) =>
              if x.number = n then { x with state := .assigned, cell := some o.cell } else x
            cells := s.cells.set o.cell { s.cell o.cell with
              state := .preparing, work := some { lot := n, step := l.currentStep }, phaseDeadline := none
              prep := some { setpointDone := true, programDone := false, soakStart := none, soakDeadline := none
                             setpointCommand := none } }
            testers := s.testers.set d.tester { s.tester d.tester with
              readiness := some { cell := o.cell, program := st.program, plan := .select k, stage := .select }
              outstanding := some { op := .select, slot := k, awaited := true } }
            stations := s.stations.set d.tester { s.station d.tester with
              queue := (s.station d.tester).queue ++ [Command.slotCommand .select k 0 0] }
            events := t.events, discards := t.discards } ∧
          s.Posted t .assigned n (u8 o.cell.val ++ u8 l.currentStep ++ [0] ++
            u8 (l.priority - elapsed s.tick l.enqueueTick / s.policy.ageStep) ++ u16 o.distance)

/-- R131, R145, R170, R178: READ QUEUE, READ INSERTION, READ HOLDS and READ RELEASE QUEUE answer what they read and change
nothing else. Presence fields and the widths that the rules leave open are the model's choice (log 5). -/
def Obligations.QueuesAndRecordsAreRead : Prop :=
  ∀ (tag : Byte) (s : State), s.Listening →
    exec (.readQueue tag) s = .next (s.replied 0xD1 tag
      ([0] ++ u32 s.tick.toNat ++ yesNo s.committed ++ u16 s.policy.ageStep ++ u8 s.policy.lookahead ++
        u8 s.evalOrder.length ++ s.evalOrder.flatMap fun (l : Lot) =>
          u32 l.number.toNat ++ u8 l.currentStep ++ u8 l.priority ++
            u8 (l.priority - elapsed s.tick l.enqueueTick / s.policy.ageStep) ++ u32 l.stamp.toNat ++
            u32 l.enqueueTick.toNat)) ∧
    exec (.readReleaseQueue tag) s = .next (s.replied 0xEA tag
      ([0] ++ u8 (s.releaseQueue.filterMap s.lot?).length ++
        (s.releaseQueue.filterMap s.lot?).flatMap fun (l : Lot) =>
          u32 l.number.toNat ++ u16 l.product.toNat ++ u32 (l.shipQuantity.getD 0) ++
            u32 ((l.release.map fun r => r.tick.toNat).getD 0))) ∧
    ∀ n l, s.HasLot n l →
      (∀ (step : Byte) r, 1 ≤ step.toNat → l.records[step.toNat - 1]? = some r →
        exec (.readInsertion tag n step) s = .next (s.replied 0xD8 tag
          (([0] : List Byte) ++ u8 (match r.outcome with
              | .notRun => 0 | .running => 1 | .partialHeld => 2 | .completeHeld => 3 | .completeClean => 4) ++
            optional 4 u32 r.input ++ u32 r.tested ++ u32 r.good ++ (r.bins.toList.flatMap fun x => u32 x) ++
            optional 4 (fun x : Int × Int => i16 x.1 ++ i16 x.2) r.extremes ++ [r.lastSeq] ++ optional 2 u16 r.number ++
            u8 r.segments ++ u8 r.retests ++ optional 2 u16 r.yieldAtClose ++ u8 r.findings.length ++
            (r.findings.flatMap fun (f : Finding) => u8 f.cause.rank ++ u32 f.firstTick.toNat ++
              if f.cause = .binLimit then u8 f.bins.length ++ f.bins.flatMap (fun b => u8 b.val) else []) ++
            u8 r.waivers.length ++ r.waivers.flatMap fun (x : Cause) => u8 x.rank))) ∧
      (∀ step : Byte, step.toNat < 1 ∨ l.records.length < step.toNat →
        exec (.readInsertion tag n step) s = .next (s.replied 0xD8 tag [5])) ∧
      ∀ r, l.current = some r →
        exec (.readHolds tag n) s = .next (s.replied 0xE2 tag
          ([0] ++ u8 l.state.code ++ u8 l.currentStep ++ u8 l.attempts ++ u8 l.holds.length ++
            (l.holds.flatMap fun (h : Hold) => u8 h.cause.rank ++ u8 h.step ++ u32 h.tick.toNat ++
              if h.cause = .binLimit then u8 h.bins.length ++ h.bins.flatMap (fun b => u8 b.val) else []) ++
            u8 r.waivers.length ++ r.waivers.flatMap fun (x : Cause) => u8 x.rank))

/-! ### Counting, judging and learning (Chapters 8 and 9) -/

/-- R134, R135: a tally whose sequence is the last one is ignored whole; any other moves the sequence and, unless T would exceed
16777215, adds its increments to the bins, their sum to T and the part in good bins to G. A sequence that
is neither the last nor the next finds TALLY_GAP, with the expected and the received sequence. ANSWER_TAKEN with a TALLY of the
running segment of a RUNNING or STOPPING cell takes it so; of another number it is stray (the two bytes of the insertion number in
STRAY_REPORT are the model's reading, log 5). R136, R151 to R154: a count above the input
or the range finds COUNT_OVER, a yield below the floor YIELD_LOW once the sample minimum is reached, and a fail bin above its limit
under a learned baseline BIN_LIMIT with the offending bins (`limitOf` and `fractionOf` are stated in LimitsAndLearning). R137: a TEMP
sample widens the record's extremes, and one outside the band in RUNNING finds TEMP_EXCURSION. R91, R138 to R141, R65, R66, R155: an END
that is not stopped closes the record complete: its findings are recorded, the yield at close is written, and where the hold set is
empty the outcome is COMPLETE_CLEAN, the baseline learns (`Baseline.learn`, stated in LimitsAndLearning) where its conditions hold
and the lot advances or is COMPLETE; otherwise the outcome is COMPLETE_HELD and the lot stays. -/
def Obligations.TalliesAreCounted : Prop :=
  (∀ (n : LotNo) (l : Lot) (r : Insertion) (seq : Byte) (incs : List Nat) (s : State),
    s.lot? n = some l → l.current = some r → incs.length = 16 →
    (seq = r.lastSeq → s.takeTally n seq incs = s) ∧
    (seq ≠ r.lastSeq → ∃ l' r', (s.takeTally n seq incs).lot? n = some l' ∧ l'.currentStep = l.currentStep ∧
      l'.current = some r' ∧ r'.lastSeq = seq ∧ r'.input = r.input ∧ r'.retests = r.retests ∧
      if 16777215 < r.tested + incs.sum then r'.tested = r.tested ∧ r'.good = r.good ∧ r'.bins = r.bins
      else r'.tested = r.tested + incs.sum ∧ (∀ b : Bin, r'.bins[b] = r.bins[b] + incs.getD b.val 0) ∧
        r'.good = r.good + (((List.finRange 16).filter fun b => l.snapshot.good[b]).map fun b => incs.getD b.val 0).sum) ∧
    (seq ≠ r.lastSeq → ∃ l' r', (s.takeTally n seq incs).lot? n = some l' ∧ l'.current = some r' ∧
      (seq = r.lastSeq + 1 → ∀ f ∈ r'.findings, f.cause = .tallyGap → f ∈ r.findings) ∧
      (seq ≠ r.lastSeq + 1 → (∃ f ∈ r'.findings, f.cause = .tallyGap) ∧
        (l.snapshot.enables.tallyGap = true → Cause.tallyGap ∉ r.waivers → ∃ h ∈ l'.holds, h.cause = .tallyGap) ∧
        ((∀ f ∈ r.findings, f.cause ≠ .tallyGap) → s.events.length < 64 →
          ∃ (verdict : Byte) (more : List Event), (s.takeTally n seq incs).events = s.events ++
            [{ kind := .finding, tick := s.tick, subject := n
               detail := u8 l.currentStep ++ [6, verdict, r.lastSeq + 1, seq, 0, 0, 0] }] ++ more ∧
            (l.snapshot.enables.tallyGap = true → Cause.tallyGap ∉ r.waivers → (∀ h ∈ l.holds, h.cause ≠ .tallyGap) →
              verdict = 3)))) ∧
    (seq ≠ r.lastSeq → 16777215 < r.tested + incs.sum ∨ (∃ input, r.input = some input ∧ input < r.tested + incs.sum) →
      ∃ l' r', (s.takeTally n seq incs).lot? n = some l' ∧ l'.current = some r' ∧ ∃ f ∈ r'.findings, f.cause = .countOver) ∧
    (seq ≠ r.lastSeq → r.tested + incs.sum ≤ 16777215 →
      ∃ l' r', (s.takeTally n seq incs).lot? n = some l' ∧ l'.current = some r' ∧
        FoundAfresh r.findings r'.findings .yieldLow
          (1 ≤ r'.tested ∧ l.snapshot.sampleMin ≤ r'.tested ∧ 10000 * r'.good / r'.tested < l.snapshot.yieldFloor)
          (fun _ => False) ∧
        FoundAfresh r.findings r'.findings .binLimit (BinLimitTrips l.snapshot (s.baselineSeen l) r'.tested r'.bins)
          (Offends l.snapshot (s.baselineSeen l) r'.tested r'.bins))) ∧
  ∀ (t : TrunkNo) (a : AddrIx) (x : Station) (c : CellNo) (d : Dock) (y : Cell) (w : Work) (l : Lot) (r : Insertion)
      (hi lo : Byte) (s : State),
    s.Polled t a → s.station (placeOf t a) = x → x.state = .online → x.kind = some .handler →
    s.HandlerOf (placeOf t a) c d → s.cell c = y → y.work = some w → s.HasLot w.lot l → l.current = some r →
    (∀ (seq : Byte) (packed : List Byte), packed.length = 24 →
      (y.state = .running ∨ y.state = .stopping → y.insertion = some (be16 hi lo) →
        s.Answers t a 0 ([0x14, hi, lo, seq] ++ packed)
          ((s.setStation (placeOf t a) x.heard).takeTally w.lot seq (unpackIncrements packed))) ∧
      (y.insertion ≠ some (be16 hi lo) →
        ∃ u : State, s.Answers t a 0 ([0x14, hi, lo, seq] ++ packed) u ∧
          u = { s.setStation (placeOf t a) x.heard with events := u.events, discards := u.discards } ∧
          s.Posted u .strayReport (BitVec.ofNat 32 (placeOf t a).val) [0x14, hi, lo])) ∧
    (∀ (z : Int) (st : RouteStep), z = max (-600) (min 2000 (BitVec.ofNat 16 (be16 hi lo)).toInt) →
      l.stepAt l.currentStep = some st → y.state = .running ∨ y.state = .stopping → l.state = .running → l.cell = some c →
      ∃ (u : State) (l' : Lot) (r' : Insertion), s.Answers t a 0 [0x12, hi, lo] u ∧ u.lot? w.lot = some l' ∧
        (∀ n, n ≠ w.lot → u.lot? n = s.lot? n) ∧ l'.current = some r' ∧
        (u.cell c).lastTemp = some (z, s.tick) ∧
        r'.extremes = some (match r.extremes with | none => (z, z) | some (x, y) => (min x z, max y z)) ∧
        if y.state = .running ∧ (z < st.setpoint - (st.window : Int) ∨ st.setpoint + (st.window : Int) < z) then
          ∃ f ∈ r'.findings, f.cause = .tempExcursion
        else
          u = { s.setStation (placeOf t a) x.heard with
            lots := u.lots, cells := s.cells.set c { y with lastTemp := some (z, s.tick) } } ∧
          l' = { l with records := l'.records } ∧ r' = { r with extremes := r'.extremes }) ∧
    ∀ final : Byte, y.state = .running ∨ y.state = .stopping → y.insertion = some (be16 hi lo) → w.lot ∉ s.dispatchQueue →
      ∃ (u : State) (l' : Lot) (r' : Insertion), s.Answers t a 0 [0x15, hi, lo, final, 0] u ∧
        u = { s.setStation (placeOf t a) x.heard with
          lots := u.lots, catalog := u.catalog, dispatchQueue := u.dispatchQueue, nextStamp := u.nextStamp
          cells := s.cells.set c { y with
            state := .idle, work := none, prep := none, insertion := none, phaseDeadline := none }
          evalPending := s.evalPending || s.committed, events := u.events, discards := u.discards } ∧
        (∀ n, n ≠ w.lot → u.lot? n = s.lot? n) ∧ u.lot? w.lot = some l' ∧ l'.recordAt l.currentStep = some r' ∧
        r' = { r with
          number := none, findings := r'.findings
          outcome := if l'.holds = [] then .completeClean else .completeHeld
          yieldAtClose := if 1 ≤ r.tested then some (10000 * r.good / r.tested) else none } ∧
        (final ≠ r.lastSeq → ∃ f ∈ r'.findings, f.cause = .tallyGap) ∧
        (∀ input, r.input = some input →
          (input < r.tested → ∃ f ∈ r'.findings, f.cause = .countOver) ∧
          (r.tested + l.snapshot.lossAllowance < input → ∃ f ∈ r'.findings, f.cause = .countShort)) ∧
        (r.extremes = none → ∃ f ∈ r'.findings, f.cause = .tempExcursion) ∧
        FoundAfresh r.findings r'.findings .yieldLow
          (1 ≤ r.tested ∧ 10000 * r.good / r.tested < l.snapshot.yieldFloor) (fun _ => False) ∧
        FoundAfresh r.findings r'.findings .binLimit (BinLimitTrips l.snapshot (s.baselineSeen l) r.tested r.bins)
          (Offends l.snapshot (s.baselineSeen l) r.tested r.bins) ∧
        (∀ f ∈ r'.findings, f ∉ r.findings → l.snapshot.enables.allows f.cause = true → f.cause ∉ r.waivers →
          ∃ h ∈ l'.holds, h.cause = f.cause) ∧
        (l.holds = [] → final = r.lastSeq → r.tested ≤ r.input.getD r.tested →
          r.input.getD r.tested ≤ r.tested + l.snapshot.lossAllowance → r.extremes.isSome → 1 ≤ r.tested →
          l.snapshot.yieldFloor ≤ 10000 * r.good / r.tested →
          ¬ BinLimitTrips l.snapshot (s.baselineSeen l) r.tested r.bins →
          l'.holds = [] ∧ r'.findings = r.findings ∧ (s.events.length + 2 ≤ 64 → u.events = s.events ++
            [{ kind := .insertionClosed, tick := s.tick, subject := w.lot
               detail := u8 l.currentStep ++ [4, 0] ++ u24 r.tested ++ u16 (10000 * r.good / r.tested) }] ++
            if r.good = 0 ∨ l.snapshot.steps.length ≤ l.currentStep then
              [{ kind := .lotComplete, tick := s.tick, subject := w.lot
                 detail := u32 r.good ++ u8 l.currentStep ++ u8 l.snapshot.steps.length }]
            else [])) ∧
        (l'.holds ≠ [] →
          l' = { l with state := .waiting, cell := none, records := l'.records, holds := l'.holds } ∧
          u.dispatchQueue = s.dispatchQueue ∧ u.nextStamp = s.nextStamp ∧ u.catalog = s.catalog) ∧
        (l'.holds = [] → r.good = 0 ∨ l.snapshot.steps.length ≤ l.currentStep →
          l' = { l with
            state := .complete, cell := none, shipQuantity := some r.good, records := l'.records, holds := [] } ∧
          u.dispatchQueue = s.dispatchQueue ∧ u.nextStamp = s.nextStamp) ∧
        (l'.holds = [] → r.good ≠ 0 → l.currentStep < l.snapshot.steps.length →
          l' = { l with
            state := .waiting, cell := none, currentStep := l.currentStep + 1, stamp := s.nextStamp, enqueueTick := s.tick
            records := l'.records, holds := [] } ∧
          (∀ next, l.recordAt (l.currentStep + 1) = some next → l'.current = some { next with input := some r.good }) ∧
          u.dispatchQueue = putBy BitVec.toNat w.lot s.dispatchQueue ∧ u.nextStamp = s.nextStamp + 1) ∧
        (l'.holds = [] → ∀ e b, s.product? l.product = some e → e.baselines[l.currentStep - 1]? = some b →
          (r.retests = 0 ∧ l.snapshot.sampleMin ≤ r.tested ∧ l.revision = e.revision →
            u.product? l.product =
              some { e with baselines := e.baselines.set (l.currentStep - 1) (b.learn r l.snapshot) }) ∧
          (r.retests ≠ 0 ∨ r.tested < l.snapshot.sampleMin ∨ l.revision ≠ e.revision → u.catalog = s.catalog))

/-- R148 to R150, R156, R157: yields and fractions lie in their ranges and are floors; a limit is the baseline and the greater of
the margin and the gain's part of the baseline, at most 65536; an update moves a value toward the fraction by the difference over
2^k truncated toward zero, so that it stays between the two and in its range. -/
def Obligations.LimitsAndLearning : Prop :=
  (∀ good tested, good ≤ tested → 1 ≤ tested →
    yieldOf good tested ≤ 10000 ∧ yieldOf good tested * tested ≤ 10000 * good ∧
      10000 * good < (yieldOf good tested + 1) * tested ∧
    fractionOf good tested ≤ 65536 ∧ fractionOf good tested * tested ≤ 65536 * good ∧
      65536 * good < (fractionOf good tested + 1) * tested) ∧
  (∀ baseline margin gain,
    limitOf baseline margin gain = min 65536 (baseline + max margin (baseline * gain / 16))) ∧
  (∀ shift old fraction, old ≤ 65536 → fraction ≤ 65536 →
    moveValue shift old fraction =
      if old ≤ fraction then old + (fraction - old) / 2 ^ shift else old - (old - fraction) / 2 ^ shift) ∧
  ∀ (b : Baseline) (r : Insertion) (v : Version), b.InRange →
    (b.count = 0 → (b.learn r v).count = 1 ∧ ∀ i : Bin, (b.learn r v).values[i] = 65536 * r.bins[i] / r.tested) ∧
    (1 ≤ b.count → (b.learn r v).count = min 255 (b.count + 1) ∧
      ∀ i : Bin, (b.learn r v).values[i] = moveValue v.shift b.values[i] (65536 * r.bins[i] / r.tested))

/-! ### Holds (Chapter 10) -/

/-- R164, R162, R159, R176: HOLD LOT enters OPERATOR in the hold set, posts HOLD_RAISED and acts by the lot's state: a WAITING lot
leaves the dispatch queue, an assignment is cancelled, a RUNNING cell is told to stop, a RELEASED lot is recalled. -/
def Obligations.HoldLot : Prop :=
  ∀ (tag : Byte) (n : LotNo) (l : Lot) (s : State), s.Listening → s.HasLot n l →
    (l.state = .shipped ∨ l.state = .scrapped → exec (.holdLot tag n) s = .next (s.replied 0xE0 tag [9])) ∧
    (l.state ≠ .shipped → l.state ≠ .scrapped → (∃ h ∈ l.holds, h.cause = .operator) →
      exec (.holdLot tag n) s = .next (s.replied 0xE0 tag [31])) ∧
    ((∀ h ∈ l.holds, h.cause ≠ .operator) → ∀ (holds : List Hold) (lots : List Lot),
      holds = { cause := .operator, step := l.currentStep, tick := s.tick, bins := [] } :: l.holds →
      lots = (s.lots.map fun (x : Lot) => if x.number = n then { x with holds := holds } else x) →
      (l.state = .waiting ∨ l.state = .complete ∨
          l.state = .running ∧ (∃ c, l.cell = some c ∧ (s.cell c).state = .stopping) →
        ∃ u : State, exec (.holdLot tag n) s =
            .next (u.replied 0xE0 tag ([0] ++ u8 holds.length ++ [1] ++ u8 l.state.code)) ∧
          u = { s with
            lots := lots, events := u.events, discards := u.discards
            dispatchQueue :=
              if l.state = .waiting then s.dispatchQueue.filter (fun m => m != n) else s.dispatchQueue } ∧
          s.Posted u .holdRaised n ([1] ++ u8 l.currentStep ++ [1] ++ u8 holds.length ++ u8 l.state.code)) ∧
      (∀ c d w, l.state = .assigned → l.cell = some c → (s.cell c).dock = some d → (s.cell c).work = some w → w.lot = n →
        ∃ v u : State, exec (.holdLot tag n) s = .next (u.replied 0xE0 tag ([0] ++ u8 holds.length ++ [1, 1])) ∧
          v = { s with lots := lots, events := v.events, discards := v.discards } ∧
          s.Posted v .holdRaised n ([1] ++ u8 l.currentStep ++ [1] ++ u8 holds.length ++ [2]) ∧
          v.Cancelled u c d w { l with holds := holds } 2) ∧
      (∀ c d k, l.state = .running → l.cell = some c → (s.cell c).dock = some d → (s.cell c).state = .running →
        (s.cell c).insertion = some k →
        ∃ u : State, exec (.holdLot tag n) s = .next (u.replied 0xE0 tag ([0] ++ u8 holds.length ++ [1, 3])) ∧
          u = { s with
            lots := lots, events := u.events, discards := u.discards, stations := u.stations
            cells := s.cells.set c { s.cell c with
              state := .stopping, phaseDeadline := some { start := s.tick, span := s.policy.stopTimeout } } } ∧
          (∀ p, p ≠ d.handler → u.station p = s.station p) ∧
          u.station d.handler =
            (if (s.station d.handler).state = .online ∧ (s.station d.handler).kind = some .handler ∧
                (s.station d.handler).queued .stop = false ∧ (s.station d.handler).flying .stop = false then
              { s.station d.handler with queue := .stopSegment k :: (s.station d.handler).queue }
            else s.station d.handler) ∧
          s.Posted u .holdRaised n ([1] ++ u8 l.currentStep ++ [1] ++ u8 holds.length ++ [3])) ∧
      (∀ before after, l.state = .released → s.releaseQueue = before ++ n :: after → n ∉ before → n ∉ after →
        ∃ u : State, exec (.holdLot tag n) s = .next (u.replied 0xE0 tag ([0] ++ u8 holds.length ++ [1, 4])) ∧
          u = { s with
            lots := s.lots.map fun (x : Lot) =>
              if x.number = n then { x with holds := holds, state := .complete, release := none } else x
            releaseQueue := before ++ after, events := u.events, discards := u.discards } ∧
          (s.events.length + 2 ≤ 64 → u.events = s.events ++
            [{ kind := .holdRaised, tick := s.tick, subject := n
               detail := [1] ++ u8 l.currentStep ++ [1] ++ u8 holds.length ++ [5] },
             { kind := .recalled, tick := s.tick, subject := n
               detail := u8 (before.length + 1) ++ u8 (before ++ after).length ++ [1] }])))

/-- R165 to R169, R65, R66: DISPOSE acts on the hold set by its verdict and posts HOLD_DISPOSED; where a CLEAR, WAIVE or RETEST
empties the hold set of a WAITING lot, the lot enters the dispatch queue or, from COMPLETE_HELD, advances to its next step or
becomes COMPLETE. -/
def Obligations.Dispose : Prop :=
  ∀ (tag cause verdict : Byte) (n : LotNo) (l : Lot) (s : State), s.Listening → s.HasLot n l →
    (cause.toNat < 1 ∨ 10 < cause.toNat ∨ verdict.toNat < 1 ∨ verdict.toNat > 4 →
      exec (.dispose tag n cause verdict) s = .next (s.replied 0xE1 tag [5])) ∧
    ∀ (r : Insertion) (k : Cause) (v : Disposition), l.current = some r → cause.toNat = k.rank → verdict.toNat = v.code →
    (l.state = .running → exec (.dispose tag n cause verdict) s = .next (s.replied 0xE1 tag [9])) ∧
    (l.state ≠ .running → (∀ h ∈ l.holds, h.cause ≠ k) →
      exec (.dispose tag n cause verdict) s = .next (s.replied 0xE1 tag [6])) ∧
    (l.state ≠ .running → (∃ h ∈ l.holds, h.cause = k) →
      ((v = .waive ∨ v = .retest) → (k = .operator ∨ k = .releaseLockout) →
        exec (.dispose tag n cause verdict) s = .next (s.replied 0xE1 tag [9])) ∧
      (v = .retest → k ≠ .operator → k ≠ .releaseLockout → 2 ≤ r.retests →
        exec (.dispose tag n cause verdict) s = .next (s.replied 0xE1 tag [25])) ∧
      ((v = .waive ∨ v = .retest → k ≠ .operator ∧ k ≠ .releaseLockout) → (v = .retest → r.retests < 2) →
        ∃ (u : State) (m m' : Lot) (r' : Insertion),
          exec (.dispose tag n cause verdict) s = .next (u.replied 0xE1 tag
            ([0] ++ u8 m'.holds.length ++ u8 (leadingRank m'.holds) ++ u8 m'.state.code ++ u8 m'.currentStep)) ∧
          u = { s with
            lots := u.lots, dispatchQueue := u.dispatchQueue, nextStamp := u.nextStamp, evalPending := u.evalPending
            events := u.events, discards := u.discards } ∧
          (∀ x, x ≠ n → u.lot? x = s.lot? x) ∧ u.lot? n = some m' ∧
          m = { l with holds := m.holds, records := m.records, attempts := m.attempts, state := m.state } ∧
          m.current = some r' ∧
          (match v with
            | .clear => m.holds = l.holds.filter (fun h => h.cause != k) ∧ r' = r ∧ m.state = l.state ∧
                m.attempts = if k = .releaseLockout then 0 else l.attempts
            | .waive => m.holds = l.holds.filter (fun h => h.cause != k) ∧ m.state = l.state ∧ m.attempts = l.attempts ∧
                r' = { r with waivers := r'.waivers } ∧ ∀ x, x ∈ r'.waivers ↔ x = k ∨ x ∈ r.waivers
            | .retest => m.state = l.state ∧ m.attempts = l.attempts ∧
                (∀ h, h ∈ m.holds ↔ h ∈ l.holds ∧
                  (h.cause = .operator ∨ h.cause = .releaseLockout ∨ h.step ≠ l.currentStep)) ∧
                r' = { outcome := .notRun, input := r.input, tested := 0, good := 0, bins := Vector.replicate 16 0
                       extremes := none, lastSeq := 255, number := none, segments := 0, retests := r.retests + 1
                       findings := [], waivers := [], yieldAtClose := none }
            | .scrap => m.holds = [] ∧ m.attempts = 0 ∧ m.state = .scrapped ∧ r' = r) ∧
          (∃ more, (s.events.length + 2 ≤ 64 → u.events = s.events ++
            [{ kind := .holdDisposed, tick := s.tick, subject := n
               detail := u8 k.rank ++ u8 v.code ++ u8 (l.holds.length - m.holds.length) ++ u8 m.holds.length ++
                 u8 (leadingRank m.holds) ++ u8 m.state.code }] ++ more)) ∧
          if m.holds ≠ [] ∨ v = .scrap ∨ l.state ≠ .waiting then
            m' = m ∧ u.dispatchQueue = s.dispatchQueue ∧ u.evalPending = s.evalPending ∧ u.nextStamp = s.nextStamp
          else if r'.outcome ≠ .completeHeld then
            m' = m ∧ u.dispatchQueue = putBy BitVec.toNat n s.dispatchQueue ∧ u.nextStamp = s.nextStamp ∧
              u.evalPending = (s.evalPending || s.committed)
          else if r'.good = 0 ∨ l.snapshot.steps.length ≤ l.currentStep then
            m' = { m with state := .complete, cell := none, shipQuantity := some r'.good } ∧
              u.dispatchQueue = s.dispatchQueue ∧ u.nextStamp = s.nextStamp ∧ u.evalPending = s.evalPending
          else
            m' = { m with
              state := .waiting, cell := none, currentStep := l.currentStep + 1, stamp := s.nextStamp
              enqueueTick := s.tick, records := m'.records } ∧
              (∀ x, m.recordAt (l.currentStep + 1) = some x → m'.current = some { x with input := some r'.good }) ∧
              u.dispatchQueue = putBy BitVec.toNat n s.dispatchQueue ∧ u.nextStamp = s.nextStamp + 1 ∧
              u.evalPending = (s.evalPending || s.committed)))

/-! ### Release and shipment (Chapter 11) -/

/-- R172, R173, R174: RELEASE LOT checks in the order of R172 (a step is proven where the lot is current and N is at least the
learn minimum), posting RELEASE_REFUSED for every refusal but TICKET_MISMATCH, which
raises the attempt count and at 3 locks the lot out; a lot that passes joins the tail of the release queue. The attempt count that
RELEASE_REFUSED carries for a number that names no lot is a free value (log 8); that the ship quantity takes 4 bytes in the OK reply is
the model's choice (log 5). -/
def Obligations.ReleaseLot : Prop :=
  ∀ (tag : Byte) (n : LotNo) (ticket : BitVec 32) (s : State) (i : Instr), s.Listening → i = .releaseLot tag n ticket →
    (n = 0 ∨ s.lot? n = none → ∀ st : Byte, st = (if n = 0 then 5 else 6) →
      ∃ u : State, exec i s = .next (u.replied 0xE8 tag [st]) ∧
        u = { s with events := u.events, discards := u.discards } ∧
        s.Posted u .releaseRefused n [st, 0, Config.refusedCountNoLot n]) ∧
    ∀ l, s.HasLot n l →
      (∀ (st number : Byte) (fields : List Byte),
        (l.state ≠ .complete ∧ st = 9 ∧ number = 0 ∧ fields = []) ∨
        (l.state = .complete ∧ ∃ h rest, l.holds = h :: rest ∧ st = 24 ∧ [number] = u8 h.cause.rank ∧ fields = [number]) ∨
        (l.state = .complete ∧ l.holds = [] ∧ l.shipQuantity.getD 0 = 0 ∧ st = 28 ∧ number = 0 ∧ fields = []) ∨
        (l.state = .complete ∧ l.holds = [] ∧ l.shipQuantity.getD 0 ≠ 0 ∧ l.snapshot.requireLearned = true ∧
          ∃ k, 1 ≤ k ∧ k ≤ l.snapshot.steps.length ∧ ¬ s.StepProven l k ∧
            (∀ j, 1 ≤ j → j < k → s.StepProven l j) ∧ st = 27 ∧ [number] = u8 k ∧ fields = [number]) →
        ∃ u : State, exec i s = .next (u.replied 0xE8 tag (st :: fields)) ∧
          u = { s with events := u.events, discards := u.discards } ∧
          s.Posted u .releaseRefused n ([st, number] ++ u8 l.attempts)) ∧
      (l.state = .complete → l.holds = [] → l.shipQuantity.getD 0 ≠ 0 →
        (l.snapshot.requireLearned = true → ∀ k, 1 ≤ k → k ≤ l.snapshot.steps.length → s.StepProven l k) →
        (l.ticket ≠ 0 → ticket ≠ l.ticket →
          ∃ u : State, exec i s = .next (u.replied 0xE8 tag ([26] ++ u8 (l.attempts + 1))) ∧
            u = { s with lots := u.lots, events := u.events, discards := u.discards } ∧
            (∀ m, m ≠ n → u.lot? m = s.lot? m) ∧
            if l.attempts + 1 = 3 then
              u.lot? n = some { l with
                attempts := 3
                holds := [{ cause := .releaseLockout, step := l.currentStep, tick := s.tick, bins := [] }] } ∧
              s.Posted u .holdRaised n ([2] ++ u8 l.currentStep ++ [2, 1, 4])
            else u.lot? n = some { l with attempts := l.attempts + 1 } ∧ u.events = s.events) ∧
        (l.ticket = 0 ∨ ticket = l.ticket →
          (16 ≤ s.releaseQueue.length →
            ∃ u : State, exec i s = .next (u.replied 0xE8 tag [29]) ∧
              u = { s with events := u.events, discards := u.discards } ∧
              s.Posted u .releaseRefused n ([29, 0] ++ u8 l.attempts)) ∧
          (s.releaseQueue.length < 16 →
            ∃ u : State, exec i s = .next (u.replied 0xE8 tag
                ([0] ++ u8 (s.releaseQueue.length + 1) ++ u32 (l.shipQuantity.getD 0))) ∧
              u = { s with
                lots := u.lots, releaseQueue := s.releaseQueue ++ [n], events := u.events, discards := u.discards } ∧
              (∀ m, m ≠ n → u.lot? m = s.lot? m) ∧
              u.lot? n = some { l with
                state := .released, attempts := 0
                release := some { tick := s.tick, shipQuantity := l.shipQuantity.getD 0
                                  yields := (l.records.take l.currentStep).map fun r => r.yieldAtClose } } ∧
              s.Posted u .released n (u32 (l.shipQuantity.getD 0) ++ u8 (s.releaseQueue.length + 1) ++
                u8 l.snapshot.steps.length))))

/-- R175: SHIP CONFIRM ships the lot at the head of the release queue, and refuses another lot NOT_NEXT with the head's number, in the
4 bytes of a lot number (log 5). -/
def Obligations.ShipConfirm : Prop :=
  ∀ (tag : Byte) (n : LotNo) (l : Lot) (s : State), s.Listening → s.HasLot n l →
    (s.releaseQueue = [] → exec (.shipConfirm tag n) s = .next (s.replied 0xE9 tag [9])) ∧
    ∀ head rest, s.releaseQueue = head :: rest →
      (head ≠ n → exec (.shipConfirm tag n) s = .next (s.replied 0xE9 tag ([30] ++ u32 head.toNat))) ∧
      (head = n → l.state = .released →
        ∃ u : State, exec (.shipConfirm tag n) s = .next (u.replied 0xE9 tag ([0] ++ u8 rest.length)) ∧
          u = { s with
            releaseQueue := rest, events := u.events, discards := u.discards
            lots := s.lots.map fun (x : Lot) => if x.number = n then { x with state := .shipped } else x } ∧
          s.Posted u .shipped n (u32 (l.shipQuantity.getD 0) ++ u8 rest.length))

/-! ### Whole-part rules and invariants -/

/-- R6, R8, R56, R171 and the table sizes of Sections 2.4, 3.1 and 4.1: every command keeps the event queue, the discard count,
the reply list and the tables in their bounds. -/
def Obligations.BoundsAreKept : Prop :=
  ∀ s t : State, step s = .next t →
    (s.LinkBounded → t.LinkBounded) ∧ (s.TablesBounded → t.TablesBounded)

/-- R13, R88, R100, R120, R166 and the ranges of Sections 2.2 and 5.1: every command keeps the policy, the recovery timers,
the miss counts, the protect floors and the insertion number counter in their ranges; and it keeps the attempt counts within
0..3, and at 3 only under RELEASE_LOCKOUT. -/
def Obligations.FieldsStayInRange : Prop :=
  (∀ s t : State, s.FieldsInRange → step s = .next t → t.FieldsInRange) ∧
  (∀ s t : State, s.AttemptsBounded → step s = .next t → t.AttemptsBounded)

/-- R29, R24: every command keeps the queues at one command of each category, and a place that is not ONLINE without any. -/
def Obligations.QueuesAreKept : Prop :=
  ∀ s t : State, s.QueuesKept → step s = .next t → t.QueuesKept

/-- R135, R51, R47: every command keeps the accounts balanced and the baseline sets in their ranges, one for each step of the
active version. -/
def Obligations.AccountsAndBaselinesAreKept : Prop :=
  ∀ s t : State, step s = .next t → (s.Accounted → t.Accounted) ∧ (s.Learned → t.Learned)

/-- R58, R117, R159, R171: every command keeps the references between lots, cells and queues. -/
def Obligations.LotsAndCellsStayLinked : Prop :=
  ∀ s t : State, s.Linked → step s = .next t → t.Linked

/-- The invariants above hold right after reset. -/
def Obligations.InvariantsHoldAtReset : Prop :=
  State.reset.LinkBounded ∧ State.reset.TablesBounded ∧ State.reset.FieldsInRange ∧ State.reset.QueuesKept ∧
  State.reset.Accounted ∧ State.reset.Learned ∧ State.reset.AttemptsBounded ∧ State.reset.Linked

/-- R59, R75, R100: no command but a full reset changes what is written once: the number, product, revision, snapshot, start
quantity and ticket of a lot that PURGE LOT does not remove; the places and alias numbers of a cell that UNDOCK CELL does not
empty; a protect floor that has been written. -/
def Obligations.WrittenOnceStays : Prop :=
  ∀ (c : Instr) (s t : State), c ≠ .resetEnd → exec c s = .next t →
    (∀ l ∈ s.lots, (∃ l' ∈ t.lots, l'.identity = l.identity) ∨ ∃ tag, c = .purgeLot tag l.number) ∧
    (∀ x d, (s.cell x).state ≠ .empty → (s.cell x).dock = some d →
      (∃ d', (t.cell x).dock = some d' ∧ d'.stations = d.stations) ∨
      ∃ tag cell, c = .undockCell tag cell ∧ cell.toNat = x.val) ∧
    ∀ p, (s.tester p).floorWritten = true →
      (t.tester p).floorWritten = true ∧ (t.tester p).protectFloor = (s.tester p).protectFloor

/-- R57, R168, R174, R175: a SHIPPED or SCRAPPED lot record is changed by no command, and leaves the table through PURGE LOT or a
full reset alone. -/
def Obligations.FinalLotsStay : Prop :=
  ∀ (c : Instr) (s t : State) (l : Lot), s.Linked → exec c s = .next t → l ∈ s.lots →
    (l.state = .shipped ∨ l.state = .scrapped) → c ≠ .resetEnd → (∀ tag, c ≠ .purgeLot tag l.number) → l ∈ t.lots

/-- R59: of the release ticket no command but RELEASE LOT shows more than whether it is blank: two states that differ at most in
the values of tickets that are not blank give the same replies, events and records but for those values. -/
def Obligations.TicketsAreNotShown : Prop :=
  ∀ (c : Instr) (s t : State), s.SameButTickets t → (∀ tag n ticket, c ≠ .releaseLot tag n ticket) →
    ∃ s' t', exec c s = .next s' ∧ exec c t = .next t' ∧ s'.replies = t'.replies ∧ s'.events = t'.events ∧
      s'.SameButTickets t'
end

