-- ==== Sys2Proof/Laws/State.lean ====
section
/-! SUPPORT. One lemma per field per update: what each update of the state leaves unchanged and what it writes. -/

namespace Sys2Proof.Machine

/-! ### `State.setStation` -/

@[simp] theorem State.setStation_pending (s : State) (p : Place) (x : Station) : (s.setStation p x).pending = s.pending := rfl
@[simp] theorem State.setStation_inReset (s : State) (p : Place) (x : Station) : (s.setStation p x).inReset = s.inReset := rfl
@[simp] theorem State.setStation_resetCause (s : State) (p : Place) (x : Station) : (s.setStation p x).resetCause = s.resetCause := rfl
@[simp] theorem State.setStation_receiver (s : State) (p : Place) (x : Station) : (s.setStation p x).receiver = s.receiver := rfl
@[simp] theorem State.setStation_serving (s : State) (p : Place) (x : Station) : (s.setStation p x).serving = s.serving := rfl
@[simp] theorem State.setStation_replies (s : State) (p : Place) (x : Station) : (s.setStation p x).replies = s.replies := rfl
@[simp] theorem State.setStation_policy (s : State) (p : Place) (x : Station) : (s.setStation p x).policy = s.policy := rfl
@[simp] theorem State.setStation_committed (s : State) (p : Place) (x : Station) : (s.setStation p x).committed = s.committed := rfl
@[simp] theorem State.setStation_attention (s : State) (p : Place) (x : Station) : (s.setStation p x).attention = s.attention := rfl
@[simp] theorem State.setStation_events (s : State) (p : Place) (x : Station) : (s.setStation p x).events = s.events := rfl
@[simp] theorem State.setStation_discards (s : State) (p : Place) (x : Station) : (s.setStation p x).discards = s.discards := rfl
@[simp] theorem State.setStation_tick (s : State) (p : Place) (x : Station) : (s.setStation p x).tick = s.tick := rfl
@[simp] theorem State.setStation_trunks (s : State) (p : Place) (x : Station) : (s.setStation p x).trunks = s.trunks := rfl
@[simp] theorem State.setStation_nextRef (s : State) (p : Place) (x : Station) : (s.setStation p x).nextRef = s.nextRef := rfl
@[simp] theorem State.setStation_aliases (s : State) (p : Place) (x : Station) : (s.setStation p x).aliases = s.aliases := rfl
@[simp] theorem State.setStation_catalog (s : State) (p : Place) (x : Station) : (s.setStation p x).catalog = s.catalog := rfl
@[simp] theorem State.setStation_lots (s : State) (p : Place) (x : Station) : (s.setStation p x).lots = s.lots := rfl
@[simp] theorem State.setStation_dispatchQueue (s : State) (p : Place) (x : Station) : (s.setStation p x).dispatchQueue = s.dispatchQueue := rfl
@[simp] theorem State.setStation_nextStamp (s : State) (p : Place) (x : Station) : (s.setStation p x).nextStamp = s.nextStamp := rfl
@[simp] theorem State.setStation_evalPending (s : State) (p : Place) (x : Station) : (s.setStation p x).evalPending = s.evalPending := rfl
@[simp] theorem State.setStation_ageDue (s : State) (p : Place) (x : Station) : (s.setStation p x).ageDue = s.ageDue := rfl
@[simp] theorem State.setStation_cells (s : State) (p : Place) (x : Station) : (s.setStation p x).cells = s.cells := rfl
@[simp] theorem State.setStation_testers (s : State) (p : Place) (x : Station) : (s.setStation p x).testers = s.testers := rfl
@[simp] theorem State.setStation_nextInsertion (s : State) (p : Place) (x : Station) : (s.setStation p x).nextInsertion = s.nextInsertion := rfl
@[simp] theorem State.setStation_releaseQueue (s : State) (p : Place) (x : Station) : (s.setStation p x).releaseQueue = s.releaseQueue := rfl

/-! ### `State.setTrunk` -/

@[simp] theorem State.setTrunk_pending (s : State) (t : TrunkNo) (x : Trunk) : (s.setTrunk t x).pending = s.pending := rfl
@[simp] theorem State.setTrunk_inReset (s : State) (t : TrunkNo) (x : Trunk) : (s.setTrunk t x).inReset = s.inReset := rfl
@[simp] theorem State.setTrunk_resetCause (s : State) (t : TrunkNo) (x : Trunk) : (s.setTrunk t x).resetCause = s.resetCause := rfl
@[simp] theorem State.setTrunk_receiver (s : State) (t : TrunkNo) (x : Trunk) : (s.setTrunk t x).receiver = s.receiver := rfl
@[simp] theorem State.setTrunk_serving (s : State) (t : TrunkNo) (x : Trunk) : (s.setTrunk t x).serving = s.serving := rfl
@[simp] theorem State.setTrunk_replies (s : State) (t : TrunkNo) (x : Trunk) : (s.setTrunk t x).replies = s.replies := rfl
@[simp] theorem State.setTrunk_policy (s : State) (t : TrunkNo) (x : Trunk) : (s.setTrunk t x).policy = s.policy := rfl
@[simp] theorem State.setTrunk_committed (s : State) (t : TrunkNo) (x : Trunk) : (s.setTrunk t x).committed = s.committed := rfl
@[simp] theorem State.setTrunk_attention (s : State) (t : TrunkNo) (x : Trunk) : (s.setTrunk t x).attention = s.attention := rfl
@[simp] theorem State.setTrunk_events (s : State) (t : TrunkNo) (x : Trunk) : (s.setTrunk t x).events = s.events := rfl
@[simp] theorem State.setTrunk_discards (s : State) (t : TrunkNo) (x : Trunk) : (s.setTrunk t x).discards = s.discards := rfl
@[simp] theorem State.setTrunk_tick (s : State) (t : TrunkNo) (x : Trunk) : (s.setTrunk t x).tick = s.tick := rfl
@[simp] theorem State.setTrunk_stations (s : State) (t : TrunkNo) (x : Trunk) : (s.setTrunk t x).stations = s.stations := rfl
@[simp] theorem State.setTrunk_nextRef (s : State) (t : TrunkNo) (x : Trunk) : (s.setTrunk t x).nextRef = s.nextRef := rfl
@[simp] theorem State.setTrunk_aliases (s : State) (t : TrunkNo) (x : Trunk) : (s.setTrunk t x).aliases = s.aliases := rfl
@[simp] theorem State.setTrunk_catalog (s : State) (t : TrunkNo) (x : Trunk) : (s.setTrunk t x).catalog = s.catalog := rfl
@[simp] theorem State.setTrunk_lots (s : State) (t : TrunkNo) (x : Trunk) : (s.setTrunk t x).lots = s.lots := rfl
@[simp] theorem State.setTrunk_dispatchQueue (s : State) (t : TrunkNo) (x : Trunk) : (s.setTrunk t x).dispatchQueue = s.dispatchQueue := rfl
@[simp] theorem State.setTrunk_nextStamp (s : State) (t : TrunkNo) (x : Trunk) : (s.setTrunk t x).nextStamp = s.nextStamp := rfl
@[simp] theorem State.setTrunk_evalPending (s : State) (t : TrunkNo) (x : Trunk) : (s.setTrunk t x).evalPending = s.evalPending := rfl
@[simp] theorem State.setTrunk_ageDue (s : State) (t : TrunkNo) (x : Trunk) : (s.setTrunk t x).ageDue = s.ageDue := rfl
@[simp] theorem State.setTrunk_cells (s : State) (t : TrunkNo) (x : Trunk) : (s.setTrunk t x).cells = s.cells := rfl
@[simp] theorem State.setTrunk_testers (s : State) (t : TrunkNo) (x : Trunk) : (s.setTrunk t x).testers = s.testers := rfl
@[simp] theorem State.setTrunk_nextInsertion (s : State) (t : TrunkNo) (x : Trunk) : (s.setTrunk t x).nextInsertion = s.nextInsertion := rfl
@[simp] theorem State.setTrunk_releaseQueue (s : State) (t : TrunkNo) (x : Trunk) : (s.setTrunk t x).releaseQueue = s.releaseQueue := rfl

/-! ### `State.setCell` -/

@[simp] theorem State.setCell_pending (s : State) (c : CellNo) (x : Cell) : (s.setCell c x).pending = s.pending := rfl
@[simp] theorem State.setCell_inReset (s : State) (c : CellNo) (x : Cell) : (s.setCell c x).inReset = s.inReset := rfl
@[simp] theorem State.setCell_resetCause (s : State) (c : CellNo) (x : Cell) : (s.setCell c x).resetCause = s.resetCause := rfl
@[simp] theorem State.setCell_receiver (s : State) (c : CellNo) (x : Cell) : (s.setCell c x).receiver = s.receiver := rfl
@[simp] theorem State.setCell_serving (s : State) (c : CellNo) (x : Cell) : (s.setCell c x).serving = s.serving := rfl
@[simp] theorem State.setCell_replies (s : State) (c : CellNo) (x : Cell) : (s.setCell c x).replies = s.replies := rfl
@[simp] theorem State.setCell_policy (s : State) (c : CellNo) (x : Cell) : (s.setCell c x).policy = s.policy := rfl
@[simp] theorem State.setCell_committed (s : State) (c : CellNo) (x : Cell) : (s.setCell c x).committed = s.committed := rfl
@[simp] theorem State.setCell_attention (s : State) (c : CellNo) (x : Cell) : (s.setCell c x).attention = s.attention := rfl
@[simp] theorem State.setCell_events (s : State) (c : CellNo) (x : Cell) : (s.setCell c x).events = s.events := rfl
@[simp] theorem State.setCell_discards (s : State) (c : CellNo) (x : Cell) : (s.setCell c x).discards = s.discards := rfl
@[simp] theorem State.setCell_tick (s : State) (c : CellNo) (x : Cell) : (s.setCell c x).tick = s.tick := rfl
@[simp] theorem State.setCell_trunks (s : State) (c : CellNo) (x : Cell) : (s.setCell c x).trunks = s.trunks := rfl
@[simp] theorem State.setCell_stations (s : State) (c : CellNo) (x : Cell) : (s.setCell c x).stations = s.stations := rfl
@[simp] theorem State.setCell_nextRef (s : State) (c : CellNo) (x : Cell) : (s.setCell c x).nextRef = s.nextRef := rfl
@[simp] theorem State.setCell_aliases (s : State) (c : CellNo) (x : Cell) : (s.setCell c x).aliases = s.aliases := rfl
@[simp] theorem State.setCell_catalog (s : State) (c : CellNo) (x : Cell) : (s.setCell c x).catalog = s.catalog := rfl
@[simp] theorem State.setCell_lots (s : State) (c : CellNo) (x : Cell) : (s.setCell c x).lots = s.lots := rfl
@[simp] theorem State.setCell_dispatchQueue (s : State) (c : CellNo) (x : Cell) : (s.setCell c x).dispatchQueue = s.dispatchQueue := rfl
@[simp] theorem State.setCell_nextStamp (s : State) (c : CellNo) (x : Cell) : (s.setCell c x).nextStamp = s.nextStamp := rfl
@[simp] theorem State.setCell_evalPending (s : State) (c : CellNo) (x : Cell) : (s.setCell c x).evalPending = s.evalPending := rfl
@[simp] theorem State.setCell_ageDue (s : State) (c : CellNo) (x : Cell) : (s.setCell c x).ageDue = s.ageDue := rfl
@[simp] theorem State.setCell_testers (s : State) (c : CellNo) (x : Cell) : (s.setCell c x).testers = s.testers := rfl
@[simp] theorem State.setCell_nextInsertion (s : State) (c : CellNo) (x : Cell) : (s.setCell c x).nextInsertion = s.nextInsertion := rfl
@[simp] theorem State.setCell_releaseQueue (s : State) (c : CellNo) (x : Cell) : (s.setCell c x).releaseQueue = s.releaseQueue := rfl

/-! ### `State.setTester` -/

@[simp] theorem State.setTester_pending (s : State) (p : Place) (x : Tester) : (s.setTester p x).pending = s.pending := rfl
@[simp] theorem State.setTester_inReset (s : State) (p : Place) (x : Tester) : (s.setTester p x).inReset = s.inReset := rfl
@[simp] theorem State.setTester_resetCause (s : State) (p : Place) (x : Tester) : (s.setTester p x).resetCause = s.resetCause := rfl
@[simp] theorem State.setTester_receiver (s : State) (p : Place) (x : Tester) : (s.setTester p x).receiver = s.receiver := rfl
@[simp] theorem State.setTester_serving (s : State) (p : Place) (x : Tester) : (s.setTester p x).serving = s.serving := rfl
@[simp] theorem State.setTester_replies (s : State) (p : Place) (x : Tester) : (s.setTester p x).replies = s.replies := rfl
@[simp] theorem State.setTester_policy (s : State) (p : Place) (x : Tester) : (s.setTester p x).policy = s.policy := rfl
@[simp] theorem State.setTester_committed (s : State) (p : Place) (x : Tester) : (s.setTester p x).committed = s.committed := rfl
@[simp] theorem State.setTester_attention (s : State) (p : Place) (x : Tester) : (s.setTester p x).attention = s.attention := rfl
@[simp] theorem State.setTester_events (s : State) (p : Place) (x : Tester) : (s.setTester p x).events = s.events := rfl
@[simp] theorem State.setTester_discards (s : State) (p : Place) (x : Tester) : (s.setTester p x).discards = s.discards := rfl
@[simp] theorem State.setTester_tick (s : State) (p : Place) (x : Tester) : (s.setTester p x).tick = s.tick := rfl
@[simp] theorem State.setTester_trunks (s : State) (p : Place) (x : Tester) : (s.setTester p x).trunks = s.trunks := rfl
@[simp] theorem State.setTester_stations (s : State) (p : Place) (x : Tester) : (s.setTester p x).stations = s.stations := rfl
@[simp] theorem State.setTester_nextRef (s : State) (p : Place) (x : Tester) : (s.setTester p x).nextRef = s.nextRef := rfl
@[simp] theorem State.setTester_aliases (s : State) (p : Place) (x : Tester) : (s.setTester p x).aliases = s.aliases := rfl
@[simp] theorem State.setTester_catalog (s : State) (p : Place) (x : Tester) : (s.setTester p x).catalog = s.catalog := rfl
@[simp] theorem State.setTester_lots (s : State) (p : Place) (x : Tester) : (s.setTester p x).lots = s.lots := rfl
@[simp] theorem State.setTester_dispatchQueue (s : State) (p : Place) (x : Tester) : (s.setTester p x).dispatchQueue = s.dispatchQueue := rfl
@[simp] theorem State.setTester_nextStamp (s : State) (p : Place) (x : Tester) : (s.setTester p x).nextStamp = s.nextStamp := rfl
@[simp] theorem State.setTester_evalPending (s : State) (p : Place) (x : Tester) : (s.setTester p x).evalPending = s.evalPending := rfl
@[simp] theorem State.setTester_ageDue (s : State) (p : Place) (x : Tester) : (s.setTester p x).ageDue = s.ageDue := rfl
@[simp] theorem State.setTester_cells (s : State) (p : Place) (x : Tester) : (s.setTester p x).cells = s.cells := rfl
@[simp] theorem State.setTester_nextInsertion (s : State) (p : Place) (x : Tester) : (s.setTester p x).nextInsertion = s.nextInsertion := rfl
@[simp] theorem State.setTester_releaseQueue (s : State) (p : Place) (x : Tester) : (s.setTester p x).releaseQueue = s.releaseQueue := rfl

/-! ### `State.modStation` -/

@[simp] theorem State.modStation_pending (s : State) (p : Place) (f : Station → Station) : (s.modStation p f).pending = s.pending := rfl
@[simp] theorem State.modStation_inReset (s : State) (p : Place) (f : Station → Station) : (s.modStation p f).inReset = s.inReset := rfl
@[simp] theorem State.modStation_resetCause (s : State) (p : Place) (f : Station → Station) : (s.modStation p f).resetCause = s.resetCause := rfl
@[simp] theorem State.modStation_receiver (s : State) (p : Place) (f : Station → Station) : (s.modStation p f).receiver = s.receiver := rfl
@[simp] theorem State.modStation_serving (s : State) (p : Place) (f : Station → Station) : (s.modStation p f).serving = s.serving := rfl
@[simp] theorem State.modStation_replies (s : State) (p : Place) (f : Station → Station) : (s.modStation p f).replies = s.replies := rfl
@[simp] theorem State.modStation_policy (s : State) (p : Place) (f : Station → Station) : (s.modStation p f).policy = s.policy := rfl
@[simp] theorem State.modStation_committed (s : State) (p : Place) (f : Station → Station) : (s.modStation p f).committed = s.committed := rfl
@[simp] theorem State.modStation_attention (s : State) (p : Place) (f : Station → Station) : (s.modStation p f).attention = s.attention := rfl
@[simp] theorem State.modStation_events (s : State) (p : Place) (f : Station → Station) : (s.modStation p f).events = s.events := rfl
@[simp] theorem State.modStation_discards (s : State) (p : Place) (f : Station → Station) : (s.modStation p f).discards = s.discards := rfl
@[simp] theorem State.modStation_tick (s : State) (p : Place) (f : Station → Station) : (s.modStation p f).tick = s.tick := rfl
@[simp] theorem State.modStation_trunks (s : State) (p : Place) (f : Station → Station) : (s.modStation p f).trunks = s.trunks := rfl
@[simp] theorem State.modStation_nextRef (s : State) (p : Place) (f : Station → Station) : (s.modStation p f).nextRef = s.nextRef := rfl
@[simp] theorem State.modStation_aliases (s : State) (p : Place) (f : Station → Station) : (s.modStation p f).aliases = s.aliases := rfl
@[simp] theorem State.modStation_catalog (s : State) (p : Place) (f : Station → Station) : (s.modStation p f).catalog = s.catalog := rfl
@[simp] theorem State.modStation_lots (s : State) (p : Place) (f : Station → Station) : (s.modStation p f).lots = s.lots := rfl
@[simp] theorem State.modStation_dispatchQueue (s : State) (p : Place) (f : Station → Station) : (s.modStation p f).dispatchQueue = s.dispatchQueue := rfl
@[simp] theorem State.modStation_nextStamp (s : State) (p : Place) (f : Station → Station) : (s.modStation p f).nextStamp = s.nextStamp := rfl
@[simp] theorem State.modStation_evalPending (s : State) (p : Place) (f : Station → Station) : (s.modStation p f).evalPending = s.evalPending := rfl
@[simp] theorem State.modStation_ageDue (s : State) (p : Place) (f : Station → Station) : (s.modStation p f).ageDue = s.ageDue := rfl
@[simp] theorem State.modStation_cells (s : State) (p : Place) (f : Station → Station) : (s.modStation p f).cells = s.cells := rfl
@[simp] theorem State.modStation_testers (s : State) (p : Place) (f : Station → Station) : (s.modStation p f).testers = s.testers := rfl
@[simp] theorem State.modStation_nextInsertion (s : State) (p : Place) (f : Station → Station) : (s.modStation p f).nextInsertion = s.nextInsertion := rfl
@[simp] theorem State.modStation_releaseQueue (s : State) (p : Place) (f : Station → Station) : (s.modStation p f).releaseQueue = s.releaseQueue := rfl

/-! ### `State.modCell` -/

@[simp] theorem State.modCell_pending (s : State) (c : CellNo) (f : Cell → Cell) : (s.modCell c f).pending = s.pending := rfl
@[simp] theorem State.modCell_inReset (s : State) (c : CellNo) (f : Cell → Cell) : (s.modCell c f).inReset = s.inReset := rfl
@[simp] theorem State.modCell_resetCause (s : State) (c : CellNo) (f : Cell → Cell) : (s.modCell c f).resetCause = s.resetCause := rfl
@[simp] theorem State.modCell_receiver (s : State) (c : CellNo) (f : Cell → Cell) : (s.modCell c f).receiver = s.receiver := rfl
@[simp] theorem State.modCell_serving (s : State) (c : CellNo) (f : Cell → Cell) : (s.modCell c f).serving = s.serving := rfl
@[simp] theorem State.modCell_replies (s : State) (c : CellNo) (f : Cell → Cell) : (s.modCell c f).replies = s.replies := rfl
@[simp] theorem State.modCell_policy (s : State) (c : CellNo) (f : Cell → Cell) : (s.modCell c f).policy = s.policy := rfl
@[simp] theorem State.modCell_committed (s : State) (c : CellNo) (f : Cell → Cell) : (s.modCell c f).committed = s.committed := rfl
@[simp] theorem State.modCell_attention (s : State) (c : CellNo) (f : Cell → Cell) : (s.modCell c f).attention = s.attention := rfl
@[simp] theorem State.modCell_events (s : State) (c : CellNo) (f : Cell → Cell) : (s.modCell c f).events = s.events := rfl
@[simp] theorem State.modCell_discards (s : State) (c : CellNo) (f : Cell → Cell) : (s.modCell c f).discards = s.discards := rfl
@[simp] theorem State.modCell_tick (s : State) (c : CellNo) (f : Cell → Cell) : (s.modCell c f).tick = s.tick := rfl
@[simp] theorem State.modCell_trunks (s : State) (c : CellNo) (f : Cell → Cell) : (s.modCell c f).trunks = s.trunks := rfl
@[simp] theorem State.modCell_stations (s : State) (c : CellNo) (f : Cell → Cell) : (s.modCell c f).stations = s.stations := rfl
@[simp] theorem State.modCell_nextRef (s : State) (c : CellNo) (f : Cell → Cell) : (s.modCell c f).nextRef = s.nextRef := rfl
@[simp] theorem State.modCell_aliases (s : State) (c : CellNo) (f : Cell → Cell) : (s.modCell c f).aliases = s.aliases := rfl
@[simp] theorem State.modCell_catalog (s : State) (c : CellNo) (f : Cell → Cell) : (s.modCell c f).catalog = s.catalog := rfl
@[simp] theorem State.modCell_lots (s : State) (c : CellNo) (f : Cell → Cell) : (s.modCell c f).lots = s.lots := rfl
@[simp] theorem State.modCell_dispatchQueue (s : State) (c : CellNo) (f : Cell → Cell) : (s.modCell c f).dispatchQueue = s.dispatchQueue := rfl
@[simp] theorem State.modCell_nextStamp (s : State) (c : CellNo) (f : Cell → Cell) : (s.modCell c f).nextStamp = s.nextStamp := rfl
@[simp] theorem State.modCell_evalPending (s : State) (c : CellNo) (f : Cell → Cell) : (s.modCell c f).evalPending = s.evalPending := rfl
@[simp] theorem State.modCell_ageDue (s : State) (c : CellNo) (f : Cell → Cell) : (s.modCell c f).ageDue = s.ageDue := rfl
@[simp] theorem State.modCell_testers (s : State) (c : CellNo) (f : Cell → Cell) : (s.modCell c f).testers = s.testers := rfl
@[simp] theorem State.modCell_nextInsertion (s : State) (c : CellNo) (f : Cell → Cell) : (s.modCell c f).nextInsertion = s.nextInsertion := rfl
@[simp] theorem State.modCell_releaseQueue (s : State) (c : CellNo) (f : Cell → Cell) : (s.modCell c f).releaseQueue = s.releaseQueue := rfl

/-! ### `State.modTester` -/

@[simp] theorem State.modTester_pending (s : State) (p : Place) (f : Tester → Tester) : (s.modTester p f).pending = s.pending := rfl
@[simp] theorem State.modTester_inReset (s : State) (p : Place) (f : Tester → Tester) : (s.modTester p f).inReset = s.inReset := rfl
@[simp] theorem State.modTester_resetCause (s : State) (p : Place) (f : Tester → Tester) : (s.modTester p f).resetCause = s.resetCause := rfl
@[simp] theorem State.modTester_receiver (s : State) (p : Place) (f : Tester → Tester) : (s.modTester p f).receiver = s.receiver := rfl
@[simp] theorem State.modTester_serving (s : State) (p : Place) (f : Tester → Tester) : (s.modTester p f).serving = s.serving := rfl
@[simp] theorem State.modTester_replies (s : State) (p : Place) (f : Tester → Tester) : (s.modTester p f).replies = s.replies := rfl
@[simp] theorem State.modTester_policy (s : State) (p : Place) (f : Tester → Tester) : (s.modTester p f).policy = s.policy := rfl
@[simp] theorem State.modTester_committed (s : State) (p : Place) (f : Tester → Tester) : (s.modTester p f).committed = s.committed := rfl
@[simp] theorem State.modTester_attention (s : State) (p : Place) (f : Tester → Tester) : (s.modTester p f).attention = s.attention := rfl
@[simp] theorem State.modTester_events (s : State) (p : Place) (f : Tester → Tester) : (s.modTester p f).events = s.events := rfl
@[simp] theorem State.modTester_discards (s : State) (p : Place) (f : Tester → Tester) : (s.modTester p f).discards = s.discards := rfl
@[simp] theorem State.modTester_tick (s : State) (p : Place) (f : Tester → Tester) : (s.modTester p f).tick = s.tick := rfl
@[simp] theorem State.modTester_trunks (s : State) (p : Place) (f : Tester → Tester) : (s.modTester p f).trunks = s.trunks := rfl
@[simp] theorem State.modTester_stations (s : State) (p : Place) (f : Tester → Tester) : (s.modTester p f).stations = s.stations := rfl
@[simp] theorem State.modTester_nextRef (s : State) (p : Place) (f : Tester → Tester) : (s.modTester p f).nextRef = s.nextRef := rfl
@[simp] theorem State.modTester_aliases (s : State) (p : Place) (f : Tester → Tester) : (s.modTester p f).aliases = s.aliases := rfl
@[simp] theorem State.modTester_catalog (s : State) (p : Place) (f : Tester → Tester) : (s.modTester p f).catalog = s.catalog := rfl
@[simp] theorem State.modTester_lots (s : State) (p : Place) (f : Tester → Tester) : (s.modTester p f).lots = s.lots := rfl
@[simp] theorem State.modTester_dispatchQueue (s : State) (p : Place) (f : Tester → Tester) : (s.modTester p f).dispatchQueue = s.dispatchQueue := rfl
@[simp] theorem State.modTester_nextStamp (s : State) (p : Place) (f : Tester → Tester) : (s.modTester p f).nextStamp = s.nextStamp := rfl
@[simp] theorem State.modTester_evalPending (s : State) (p : Place) (f : Tester → Tester) : (s.modTester p f).evalPending = s.evalPending := rfl
@[simp] theorem State.modTester_ageDue (s : State) (p : Place) (f : Tester → Tester) : (s.modTester p f).ageDue = s.ageDue := rfl
@[simp] theorem State.modTester_cells (s : State) (p : Place) (f : Tester → Tester) : (s.modTester p f).cells = s.cells := rfl
@[simp] theorem State.modTester_nextInsertion (s : State) (p : Place) (f : Tester → Tester) : (s.modTester p f).nextInsertion = s.nextInsertion := rfl
@[simp] theorem State.modTester_releaseQueue (s : State) (p : Place) (f : Tester → Tester) : (s.modTester p f).releaseQueue = s.releaseQueue := rfl

/-! ### `State.modLot` -/

@[simp] theorem State.modLot_pending (s : State) (n : LotNo) (f : Lot → Lot) : (s.modLot n f).pending = s.pending := rfl
@[simp] theorem State.modLot_inReset (s : State) (n : LotNo) (f : Lot → Lot) : (s.modLot n f).inReset = s.inReset := rfl
@[simp] theorem State.modLot_resetCause (s : State) (n : LotNo) (f : Lot → Lot) : (s.modLot n f).resetCause = s.resetCause := rfl
@[simp] theorem State.modLot_receiver (s : State) (n : LotNo) (f : Lot → Lot) : (s.modLot n f).receiver = s.receiver := rfl
@[simp] theorem State.modLot_serving (s : State) (n : LotNo) (f : Lot → Lot) : (s.modLot n f).serving = s.serving := rfl
@[simp] theorem State.modLot_replies (s : State) (n : LotNo) (f : Lot → Lot) : (s.modLot n f).replies = s.replies := rfl
@[simp] theorem State.modLot_policy (s : State) (n : LotNo) (f : Lot → Lot) : (s.modLot n f).policy = s.policy := rfl
@[simp] theorem State.modLot_committed (s : State) (n : LotNo) (f : Lot → Lot) : (s.modLot n f).committed = s.committed := rfl
@[simp] theorem State.modLot_attention (s : State) (n : LotNo) (f : Lot → Lot) : (s.modLot n f).attention = s.attention := rfl
@[simp] theorem State.modLot_events (s : State) (n : LotNo) (f : Lot → Lot) : (s.modLot n f).events = s.events := rfl
@[simp] theorem State.modLot_discards (s : State) (n : LotNo) (f : Lot → Lot) : (s.modLot n f).discards = s.discards := rfl
@[simp] theorem State.modLot_tick (s : State) (n : LotNo) (f : Lot → Lot) : (s.modLot n f).tick = s.tick := rfl
@[simp] theorem State.modLot_trunks (s : State) (n : LotNo) (f : Lot → Lot) : (s.modLot n f).trunks = s.trunks := rfl
@[simp] theorem State.modLot_stations (s : State) (n : LotNo) (f : Lot → Lot) : (s.modLot n f).stations = s.stations := rfl
@[simp] theorem State.modLot_nextRef (s : State) (n : LotNo) (f : Lot → Lot) : (s.modLot n f).nextRef = s.nextRef := rfl
@[simp] theorem State.modLot_aliases (s : State) (n : LotNo) (f : Lot → Lot) : (s.modLot n f).aliases = s.aliases := rfl
@[simp] theorem State.modLot_catalog (s : State) (n : LotNo) (f : Lot → Lot) : (s.modLot n f).catalog = s.catalog := rfl
@[simp] theorem State.modLot_dispatchQueue (s : State) (n : LotNo) (f : Lot → Lot) : (s.modLot n f).dispatchQueue = s.dispatchQueue := rfl
@[simp] theorem State.modLot_nextStamp (s : State) (n : LotNo) (f : Lot → Lot) : (s.modLot n f).nextStamp = s.nextStamp := rfl
@[simp] theorem State.modLot_evalPending (s : State) (n : LotNo) (f : Lot → Lot) : (s.modLot n f).evalPending = s.evalPending := rfl
@[simp] theorem State.modLot_ageDue (s : State) (n : LotNo) (f : Lot → Lot) : (s.modLot n f).ageDue = s.ageDue := rfl
@[simp] theorem State.modLot_cells (s : State) (n : LotNo) (f : Lot → Lot) : (s.modLot n f).cells = s.cells := rfl
@[simp] theorem State.modLot_testers (s : State) (n : LotNo) (f : Lot → Lot) : (s.modLot n f).testers = s.testers := rfl
@[simp] theorem State.modLot_nextInsertion (s : State) (n : LotNo) (f : Lot → Lot) : (s.modLot n f).nextInsertion = s.nextInsertion := rfl
@[simp] theorem State.modLot_releaseQueue (s : State) (n : LotNo) (f : Lot → Lot) : (s.modLot n f).releaseQueue = s.releaseQueue := rfl

/-! ### `State.putProduct` -/

@[simp] theorem State.putProduct_pending (s : State) (e : Product) : (s.putProduct e).pending = s.pending := rfl
@[simp] theorem State.putProduct_inReset (s : State) (e : Product) : (s.putProduct e).inReset = s.inReset := rfl
@[simp] theorem State.putProduct_resetCause (s : State) (e : Product) : (s.putProduct e).resetCause = s.resetCause := rfl
@[simp] theorem State.putProduct_receiver (s : State) (e : Product) : (s.putProduct e).receiver = s.receiver := rfl
@[simp] theorem State.putProduct_serving (s : State) (e : Product) : (s.putProduct e).serving = s.serving := rfl
@[simp] theorem State.putProduct_replies (s : State) (e : Product) : (s.putProduct e).replies = s.replies := rfl
@[simp] theorem State.putProduct_policy (s : State) (e : Product) : (s.putProduct e).policy = s.policy := rfl
@[simp] theorem State.putProduct_committed (s : State) (e : Product) : (s.putProduct e).committed = s.committed := rfl
@[simp] theorem State.putProduct_attention (s : State) (e : Product) : (s.putProduct e).attention = s.attention := rfl
@[simp] theorem State.putProduct_events (s : State) (e : Product) : (s.putProduct e).events = s.events := rfl
@[simp] theorem State.putProduct_discards (s : State) (e : Product) : (s.putProduct e).discards = s.discards := rfl
@[simp] theorem State.putProduct_tick (s : State) (e : Product) : (s.putProduct e).tick = s.tick := rfl
@[simp] theorem State.putProduct_trunks (s : State) (e : Product) : (s.putProduct e).trunks = s.trunks := rfl
@[simp] theorem State.putProduct_stations (s : State) (e : Product) : (s.putProduct e).stations = s.stations := rfl
@[simp] theorem State.putProduct_nextRef (s : State) (e : Product) : (s.putProduct e).nextRef = s.nextRef := rfl
@[simp] theorem State.putProduct_aliases (s : State) (e : Product) : (s.putProduct e).aliases = s.aliases := rfl
@[simp] theorem State.putProduct_lots (s : State) (e : Product) : (s.putProduct e).lots = s.lots := rfl
@[simp] theorem State.putProduct_dispatchQueue (s : State) (e : Product) : (s.putProduct e).dispatchQueue = s.dispatchQueue := rfl
@[simp] theorem State.putProduct_nextStamp (s : State) (e : Product) : (s.putProduct e).nextStamp = s.nextStamp := rfl
@[simp] theorem State.putProduct_evalPending (s : State) (e : Product) : (s.putProduct e).evalPending = s.evalPending := rfl
@[simp] theorem State.putProduct_ageDue (s : State) (e : Product) : (s.putProduct e).ageDue = s.ageDue := rfl
@[simp] theorem State.putProduct_cells (s : State) (e : Product) : (s.putProduct e).cells = s.cells := rfl
@[simp] theorem State.putProduct_testers (s : State) (e : Product) : (s.putProduct e).testers = s.testers := rfl
@[simp] theorem State.putProduct_nextInsertion (s : State) (e : Product) : (s.putProduct e).nextInsertion = s.nextInsertion := rfl
@[simp] theorem State.putProduct_releaseQueue (s : State) (e : Product) : (s.putProduct e).releaseQueue = s.releaseQueue := rfl

/-! ### `State.dropProduct` -/

@[simp] theorem State.dropProduct_pending (s : State) (n : ProductNo) : (s.dropProduct n).pending = s.pending := rfl
@[simp] theorem State.dropProduct_inReset (s : State) (n : ProductNo) : (s.dropProduct n).inReset = s.inReset := rfl
@[simp] theorem State.dropProduct_resetCause (s : State) (n : ProductNo) : (s.dropProduct n).resetCause = s.resetCause := rfl
@[simp] theorem State.dropProduct_receiver (s : State) (n : ProductNo) : (s.dropProduct n).receiver = s.receiver := rfl
@[simp] theorem State.dropProduct_serving (s : State) (n : ProductNo) : (s.dropProduct n).serving = s.serving := rfl
@[simp] theorem State.dropProduct_replies (s : State) (n : ProductNo) : (s.dropProduct n).replies = s.replies := rfl
@[simp] theorem State.dropProduct_policy (s : State) (n : ProductNo) : (s.dropProduct n).policy = s.policy := rfl
@[simp] theorem State.dropProduct_committed (s : State) (n : ProductNo) : (s.dropProduct n).committed = s.committed := rfl
@[simp] theorem State.dropProduct_attention (s : State) (n : ProductNo) : (s.dropProduct n).attention = s.attention := rfl
@[simp] theorem State.dropProduct_events (s : State) (n : ProductNo) : (s.dropProduct n).events = s.events := rfl
@[simp] theorem State.dropProduct_discards (s : State) (n : ProductNo) : (s.dropProduct n).discards = s.discards := rfl
@[simp] theorem State.dropProduct_tick (s : State) (n : ProductNo) : (s.dropProduct n).tick = s.tick := rfl
@[simp] theorem State.dropProduct_trunks (s : State) (n : ProductNo) : (s.dropProduct n).trunks = s.trunks := rfl
@[simp] theorem State.dropProduct_stations (s : State) (n : ProductNo) : (s.dropProduct n).stations = s.stations := rfl
@[simp] theorem State.dropProduct_nextRef (s : State) (n : ProductNo) : (s.dropProduct n).nextRef = s.nextRef := rfl
@[simp] theorem State.dropProduct_aliases (s : State) (n : ProductNo) : (s.dropProduct n).aliases = s.aliases := rfl
@[simp] theorem State.dropProduct_lots (s : State) (n : ProductNo) : (s.dropProduct n).lots = s.lots := rfl
@[simp] theorem State.dropProduct_dispatchQueue (s : State) (n : ProductNo) : (s.dropProduct n).dispatchQueue = s.dispatchQueue := rfl
@[simp] theorem State.dropProduct_nextStamp (s : State) (n : ProductNo) : (s.dropProduct n).nextStamp = s.nextStamp := rfl
@[simp] theorem State.dropProduct_evalPending (s : State) (n : ProductNo) : (s.dropProduct n).evalPending = s.evalPending := rfl
@[simp] theorem State.dropProduct_ageDue (s : State) (n : ProductNo) : (s.dropProduct n).ageDue = s.ageDue := rfl
@[simp] theorem State.dropProduct_cells (s : State) (n : ProductNo) : (s.dropProduct n).cells = s.cells := rfl
@[simp] theorem State.dropProduct_testers (s : State) (n : ProductNo) : (s.dropProduct n).testers = s.testers := rfl
@[simp] theorem State.dropProduct_nextInsertion (s : State) (n : ProductNo) : (s.dropProduct n).nextInsertion = s.nextInsertion := rfl
@[simp] theorem State.dropProduct_releaseQueue (s : State) (n : ProductNo) : (s.dropProduct n).releaseQueue = s.releaseQueue := rfl

/-! ### `State.placeReply` -/

@[simp] theorem State.placeReply_pending (s : State) (kind tag : Byte) (st : Status) (fields : List Byte) : (s.placeReply kind tag st fields).pending = s.pending := rfl
@[simp] theorem State.placeReply_inReset (s : State) (kind tag : Byte) (st : Status) (fields : List Byte) : (s.placeReply kind tag st fields).inReset = s.inReset := rfl
@[simp] theorem State.placeReply_resetCause (s : State) (kind tag : Byte) (st : Status) (fields : List Byte) : (s.placeReply kind tag st fields).resetCause = s.resetCause := rfl
@[simp] theorem State.placeReply_receiver (s : State) (kind tag : Byte) (st : Status) (fields : List Byte) : (s.placeReply kind tag st fields).receiver = s.receiver := rfl
@[simp] theorem State.placeReply_serving (s : State) (kind tag : Byte) (st : Status) (fields : List Byte) : (s.placeReply kind tag st fields).serving = s.serving := rfl
@[simp] theorem State.placeReply_policy (s : State) (kind tag : Byte) (st : Status) (fields : List Byte) : (s.placeReply kind tag st fields).policy = s.policy := rfl
@[simp] theorem State.placeReply_committed (s : State) (kind tag : Byte) (st : Status) (fields : List Byte) : (s.placeReply kind tag st fields).committed = s.committed := rfl
@[simp] theorem State.placeReply_attention (s : State) (kind tag : Byte) (st : Status) (fields : List Byte) : (s.placeReply kind tag st fields).attention = s.attention := rfl
@[simp] theorem State.placeReply_events (s : State) (kind tag : Byte) (st : Status) (fields : List Byte) : (s.placeReply kind tag st fields).events = s.events := rfl
@[simp] theorem State.placeReply_discards (s : State) (kind tag : Byte) (st : Status) (fields : List Byte) : (s.placeReply kind tag st fields).discards = s.discards := rfl
@[simp] theorem State.placeReply_tick (s : State) (kind tag : Byte) (st : Status) (fields : List Byte) : (s.placeReply kind tag st fields).tick = s.tick := rfl
@[simp] theorem State.placeReply_trunks (s : State) (kind tag : Byte) (st : Status) (fields : List Byte) : (s.placeReply kind tag st fields).trunks = s.trunks := rfl
@[simp] theorem State.placeReply_stations (s : State) (kind tag : Byte) (st : Status) (fields : List Byte) : (s.placeReply kind tag st fields).stations = s.stations := rfl
@[simp] theorem State.placeReply_nextRef (s : State) (kind tag : Byte) (st : Status) (fields : List Byte) : (s.placeReply kind tag st fields).nextRef = s.nextRef := rfl
@[simp] theorem State.placeReply_aliases (s : State) (kind tag : Byte) (st : Status) (fields : List Byte) : (s.placeReply kind tag st fields).aliases = s.aliases := rfl
@[simp] theorem State.placeReply_catalog (s : State) (kind tag : Byte) (st : Status) (fields : List Byte) : (s.placeReply kind tag st fields).catalog = s.catalog := rfl
@[simp] theorem State.placeReply_lots (s : State) (kind tag : Byte) (st : Status) (fields : List Byte) : (s.placeReply kind tag st fields).lots = s.lots := rfl
@[simp] theorem State.placeReply_dispatchQueue (s : State) (kind tag : Byte) (st : Status) (fields : List Byte) : (s.placeReply kind tag st fields).dispatchQueue = s.dispatchQueue := rfl
@[simp] theorem State.placeReply_nextStamp (s : State) (kind tag : Byte) (st : Status) (fields : List Byte) : (s.placeReply kind tag st fields).nextStamp = s.nextStamp := rfl
@[simp] theorem State.placeReply_evalPending (s : State) (kind tag : Byte) (st : Status) (fields : List Byte) : (s.placeReply kind tag st fields).evalPending = s.evalPending := rfl
@[simp] theorem State.placeReply_ageDue (s : State) (kind tag : Byte) (st : Status) (fields : List Byte) : (s.placeReply kind tag st fields).ageDue = s.ageDue := rfl
@[simp] theorem State.placeReply_cells (s : State) (kind tag : Byte) (st : Status) (fields : List Byte) : (s.placeReply kind tag st fields).cells = s.cells := rfl
@[simp] theorem State.placeReply_testers (s : State) (kind tag : Byte) (st : Status) (fields : List Byte) : (s.placeReply kind tag st fields).testers = s.testers := rfl
@[simp] theorem State.placeReply_nextInsertion (s : State) (kind tag : Byte) (st : Status) (fields : List Byte) : (s.placeReply kind tag st fields).nextInsertion = s.nextInsertion := rfl
@[simp] theorem State.placeReply_releaseQueue (s : State) (kind tag : Byte) (st : Status) (fields : List Byte) : (s.placeReply kind tag st fields).releaseQueue = s.releaseQueue := rfl

/-! ### `State.answer` -/

@[simp] theorem State.answer_pending (s : State) (kind tag : Byte) (st : Status) (fields : List Byte) : (s.answer kind tag st fields).pending = s.pending := rfl
@[simp] theorem State.answer_inReset (s : State) (kind tag : Byte) (st : Status) (fields : List Byte) : (s.answer kind tag st fields).inReset = s.inReset := rfl
@[simp] theorem State.answer_resetCause (s : State) (kind tag : Byte) (st : Status) (fields : List Byte) : (s.answer kind tag st fields).resetCause = s.resetCause := rfl
@[simp] theorem State.answer_receiver (s : State) (kind tag : Byte) (st : Status) (fields : List Byte) : (s.answer kind tag st fields).receiver = s.receiver := rfl
@[simp] theorem State.answer_policy (s : State) (kind tag : Byte) (st : Status) (fields : List Byte) : (s.answer kind tag st fields).policy = s.policy := rfl
@[simp] theorem State.answer_committed (s : State) (kind tag : Byte) (st : Status) (fields : List Byte) : (s.answer kind tag st fields).committed = s.committed := rfl
@[simp] theorem State.answer_attention (s : State) (kind tag : Byte) (st : Status) (fields : List Byte) : (s.answer kind tag st fields).attention = s.attention := rfl
@[simp] theorem State.answer_events (s : State) (kind tag : Byte) (st : Status) (fields : List Byte) : (s.answer kind tag st fields).events = s.events := rfl
@[simp] theorem State.answer_discards (s : State) (kind tag : Byte) (st : Status) (fields : List Byte) : (s.answer kind tag st fields).discards = s.discards := rfl
@[simp] theorem State.answer_tick (s : State) (kind tag : Byte) (st : Status) (fields : List Byte) : (s.answer kind tag st fields).tick = s.tick := rfl
@[simp] theorem State.answer_trunks (s : State) (kind tag : Byte) (st : Status) (fields : List Byte) : (s.answer kind tag st fields).trunks = s.trunks := rfl
@[simp] theorem State.answer_stations (s : State) (kind tag : Byte) (st : Status) (fields : List Byte) : (s.answer kind tag st fields).stations = s.stations := rfl
@[simp] theorem State.answer_nextRef (s : State) (kind tag : Byte) (st : Status) (fields : List Byte) : (s.answer kind tag st fields).nextRef = s.nextRef := rfl
@[simp] theorem State.answer_aliases (s : State) (kind tag : Byte) (st : Status) (fields : List Byte) : (s.answer kind tag st fields).aliases = s.aliases := rfl
@[simp] theorem State.answer_catalog (s : State) (kind tag : Byte) (st : Status) (fields : List Byte) : (s.answer kind tag st fields).catalog = s.catalog := rfl
@[simp] theorem State.answer_lots (s : State) (kind tag : Byte) (st : Status) (fields : List Byte) : (s.answer kind tag st fields).lots = s.lots := rfl
@[simp] theorem State.answer_dispatchQueue (s : State) (kind tag : Byte) (st : Status) (fields : List Byte) : (s.answer kind tag st fields).dispatchQueue = s.dispatchQueue := rfl
@[simp] theorem State.answer_nextStamp (s : State) (kind tag : Byte) (st : Status) (fields : List Byte) : (s.answer kind tag st fields).nextStamp = s.nextStamp := rfl
@[simp] theorem State.answer_evalPending (s : State) (kind tag : Byte) (st : Status) (fields : List Byte) : (s.answer kind tag st fields).evalPending = s.evalPending := rfl
@[simp] theorem State.answer_ageDue (s : State) (kind tag : Byte) (st : Status) (fields : List Byte) : (s.answer kind tag st fields).ageDue = s.ageDue := rfl
@[simp] theorem State.answer_cells (s : State) (kind tag : Byte) (st : Status) (fields : List Byte) : (s.answer kind tag st fields).cells = s.cells := rfl
@[simp] theorem State.answer_testers (s : State) (kind tag : Byte) (st : Status) (fields : List Byte) : (s.answer kind tag st fields).testers = s.testers := rfl
@[simp] theorem State.answer_nextInsertion (s : State) (kind tag : Byte) (st : Status) (fields : List Byte) : (s.answer kind tag st fields).nextInsertion = s.nextInsertion := rfl
@[simp] theorem State.answer_releaseQueue (s : State) (kind tag : Byte) (st : Status) (fields : List Byte) : (s.answer kind tag st fields).releaseQueue = s.releaseQueue := rfl

/-! ### `State.replied` -/

@[simp] theorem State.replied_pending (s : State) (kind tag : Byte) (payload : List Byte) : (s.replied kind tag payload).pending = s.pending := rfl
@[simp] theorem State.replied_inReset (s : State) (kind tag : Byte) (payload : List Byte) : (s.replied kind tag payload).inReset = s.inReset := rfl
@[simp] theorem State.replied_resetCause (s : State) (kind tag : Byte) (payload : List Byte) : (s.replied kind tag payload).resetCause = s.resetCause := rfl
@[simp] theorem State.replied_receiver (s : State) (kind tag : Byte) (payload : List Byte) : (s.replied kind tag payload).receiver = s.receiver := rfl
@[simp] theorem State.replied_serving (s : State) (kind tag : Byte) (payload : List Byte) : (s.replied kind tag payload).serving = s.serving := rfl
@[simp] theorem State.replied_policy (s : State) (kind tag : Byte) (payload : List Byte) : (s.replied kind tag payload).policy = s.policy := rfl
@[simp] theorem State.replied_committed (s : State) (kind tag : Byte) (payload : List Byte) : (s.replied kind tag payload).committed = s.committed := rfl
@[simp] theorem State.replied_attention (s : State) (kind tag : Byte) (payload : List Byte) : (s.replied kind tag payload).attention = s.attention := rfl
@[simp] theorem State.replied_events (s : State) (kind tag : Byte) (payload : List Byte) : (s.replied kind tag payload).events = s.events := rfl
@[simp] theorem State.replied_discards (s : State) (kind tag : Byte) (payload : List Byte) : (s.replied kind tag payload).discards = s.discards := rfl
@[simp] theorem State.replied_tick (s : State) (kind tag : Byte) (payload : List Byte) : (s.replied kind tag payload).tick = s.tick := rfl
@[simp] theorem State.replied_trunks (s : State) (kind tag : Byte) (payload : List Byte) : (s.replied kind tag payload).trunks = s.trunks := rfl
@[simp] theorem State.replied_stations (s : State) (kind tag : Byte) (payload : List Byte) : (s.replied kind tag payload).stations = s.stations := rfl
@[simp] theorem State.replied_nextRef (s : State) (kind tag : Byte) (payload : List Byte) : (s.replied kind tag payload).nextRef = s.nextRef := rfl
@[simp] theorem State.replied_aliases (s : State) (kind tag : Byte) (payload : List Byte) : (s.replied kind tag payload).aliases = s.aliases := rfl
@[simp] theorem State.replied_catalog (s : State) (kind tag : Byte) (payload : List Byte) : (s.replied kind tag payload).catalog = s.catalog := rfl
@[simp] theorem State.replied_lots (s : State) (kind tag : Byte) (payload : List Byte) : (s.replied kind tag payload).lots = s.lots := rfl
@[simp] theorem State.replied_dispatchQueue (s : State) (kind tag : Byte) (payload : List Byte) : (s.replied kind tag payload).dispatchQueue = s.dispatchQueue := rfl
@[simp] theorem State.replied_nextStamp (s : State) (kind tag : Byte) (payload : List Byte) : (s.replied kind tag payload).nextStamp = s.nextStamp := rfl
@[simp] theorem State.replied_evalPending (s : State) (kind tag : Byte) (payload : List Byte) : (s.replied kind tag payload).evalPending = s.evalPending := rfl
@[simp] theorem State.replied_ageDue (s : State) (kind tag : Byte) (payload : List Byte) : (s.replied kind tag payload).ageDue = s.ageDue := rfl
@[simp] theorem State.replied_cells (s : State) (kind tag : Byte) (payload : List Byte) : (s.replied kind tag payload).cells = s.cells := rfl
@[simp] theorem State.replied_testers (s : State) (kind tag : Byte) (payload : List Byte) : (s.replied kind tag payload).testers = s.testers := rfl
@[simp] theorem State.replied_nextInsertion (s : State) (kind tag : Byte) (payload : List Byte) : (s.replied kind tag payload).nextInsertion = s.nextInsertion := rfl
@[simp] theorem State.replied_releaseQueue (s : State) (kind tag : Byte) (payload : List Byte) : (s.replied kind tag payload).releaseQueue = s.releaseQueue := rfl

/-! ### `State.leaveQueue` -/

@[simp] theorem State.leaveQueue_pending (s : State) (n : LotNo) : (s.leaveQueue n).pending = s.pending := rfl
@[simp] theorem State.leaveQueue_inReset (s : State) (n : LotNo) : (s.leaveQueue n).inReset = s.inReset := rfl
@[simp] theorem State.leaveQueue_resetCause (s : State) (n : LotNo) : (s.leaveQueue n).resetCause = s.resetCause := rfl
@[simp] theorem State.leaveQueue_receiver (s : State) (n : LotNo) : (s.leaveQueue n).receiver = s.receiver := rfl
@[simp] theorem State.leaveQueue_serving (s : State) (n : LotNo) : (s.leaveQueue n).serving = s.serving := rfl
@[simp] theorem State.leaveQueue_replies (s : State) (n : LotNo) : (s.leaveQueue n).replies = s.replies := rfl
@[simp] theorem State.leaveQueue_policy (s : State) (n : LotNo) : (s.leaveQueue n).policy = s.policy := rfl
@[simp] theorem State.leaveQueue_committed (s : State) (n : LotNo) : (s.leaveQueue n).committed = s.committed := rfl
@[simp] theorem State.leaveQueue_attention (s : State) (n : LotNo) : (s.leaveQueue n).attention = s.attention := rfl
@[simp] theorem State.leaveQueue_events (s : State) (n : LotNo) : (s.leaveQueue n).events = s.events := rfl
@[simp] theorem State.leaveQueue_discards (s : State) (n : LotNo) : (s.leaveQueue n).discards = s.discards := rfl
@[simp] theorem State.leaveQueue_tick (s : State) (n : LotNo) : (s.leaveQueue n).tick = s.tick := rfl
@[simp] theorem State.leaveQueue_trunks (s : State) (n : LotNo) : (s.leaveQueue n).trunks = s.trunks := rfl
@[simp] theorem State.leaveQueue_stations (s : State) (n : LotNo) : (s.leaveQueue n).stations = s.stations := rfl
@[simp] theorem State.leaveQueue_nextRef (s : State) (n : LotNo) : (s.leaveQueue n).nextRef = s.nextRef := rfl
@[simp] theorem State.leaveQueue_aliases (s : State) (n : LotNo) : (s.leaveQueue n).aliases = s.aliases := rfl
@[simp] theorem State.leaveQueue_catalog (s : State) (n : LotNo) : (s.leaveQueue n).catalog = s.catalog := rfl
@[simp] theorem State.leaveQueue_lots (s : State) (n : LotNo) : (s.leaveQueue n).lots = s.lots := rfl
@[simp] theorem State.leaveQueue_nextStamp (s : State) (n : LotNo) : (s.leaveQueue n).nextStamp = s.nextStamp := rfl
@[simp] theorem State.leaveQueue_evalPending (s : State) (n : LotNo) : (s.leaveQueue n).evalPending = s.evalPending := rfl
@[simp] theorem State.leaveQueue_ageDue (s : State) (n : LotNo) : (s.leaveQueue n).ageDue = s.ageDue := rfl
@[simp] theorem State.leaveQueue_cells (s : State) (n : LotNo) : (s.leaveQueue n).cells = s.cells := rfl
@[simp] theorem State.leaveQueue_testers (s : State) (n : LotNo) : (s.leaveQueue n).testers = s.testers := rfl
@[simp] theorem State.leaveQueue_nextInsertion (s : State) (n : LotNo) : (s.leaveQueue n).nextInsertion = s.nextInsertion := rfl
@[simp] theorem State.leaveQueue_releaseQueue (s : State) (n : LotNo) : (s.leaveQueue n).releaseQueue = s.releaseQueue := rfl

/-! ### `State.takeStamp` -/

@[simp] theorem State.takeStamp_pending (s : State) (n : LotNo) : (s.takeStamp n).pending = s.pending := rfl
@[simp] theorem State.takeStamp_inReset (s : State) (n : LotNo) : (s.takeStamp n).inReset = s.inReset := rfl
@[simp] theorem State.takeStamp_resetCause (s : State) (n : LotNo) : (s.takeStamp n).resetCause = s.resetCause := rfl
@[simp] theorem State.takeStamp_receiver (s : State) (n : LotNo) : (s.takeStamp n).receiver = s.receiver := rfl
@[simp] theorem State.takeStamp_serving (s : State) (n : LotNo) : (s.takeStamp n).serving = s.serving := rfl
@[simp] theorem State.takeStamp_replies (s : State) (n : LotNo) : (s.takeStamp n).replies = s.replies := rfl
@[simp] theorem State.takeStamp_policy (s : State) (n : LotNo) : (s.takeStamp n).policy = s.policy := rfl
@[simp] theorem State.takeStamp_committed (s : State) (n : LotNo) : (s.takeStamp n).committed = s.committed := rfl
@[simp] theorem State.takeStamp_attention (s : State) (n : LotNo) : (s.takeStamp n).attention = s.attention := rfl
@[simp] theorem State.takeStamp_events (s : State) (n : LotNo) : (s.takeStamp n).events = s.events := rfl
@[simp] theorem State.takeStamp_discards (s : State) (n : LotNo) : (s.takeStamp n).discards = s.discards := rfl
@[simp] theorem State.takeStamp_tick (s : State) (n : LotNo) : (s.takeStamp n).tick = s.tick := rfl
@[simp] theorem State.takeStamp_trunks (s : State) (n : LotNo) : (s.takeStamp n).trunks = s.trunks := rfl
@[simp] theorem State.takeStamp_stations (s : State) (n : LotNo) : (s.takeStamp n).stations = s.stations := rfl
@[simp] theorem State.takeStamp_nextRef (s : State) (n : LotNo) : (s.takeStamp n).nextRef = s.nextRef := rfl
@[simp] theorem State.takeStamp_aliases (s : State) (n : LotNo) : (s.takeStamp n).aliases = s.aliases := rfl
@[simp] theorem State.takeStamp_catalog (s : State) (n : LotNo) : (s.takeStamp n).catalog = s.catalog := rfl
@[simp] theorem State.takeStamp_dispatchQueue (s : State) (n : LotNo) : (s.takeStamp n).dispatchQueue = s.dispatchQueue := rfl
@[simp] theorem State.takeStamp_evalPending (s : State) (n : LotNo) : (s.takeStamp n).evalPending = s.evalPending := rfl
@[simp] theorem State.takeStamp_ageDue (s : State) (n : LotNo) : (s.takeStamp n).ageDue = s.ageDue := rfl
@[simp] theorem State.takeStamp_cells (s : State) (n : LotNo) : (s.takeStamp n).cells = s.cells := rfl
@[simp] theorem State.takeStamp_testers (s : State) (n : LotNo) : (s.takeStamp n).testers = s.testers := rfl
@[simp] theorem State.takeStamp_nextInsertion (s : State) (n : LotNo) : (s.takeStamp n).nextInsertion = s.nextInsertion := rfl
@[simp] theorem State.takeStamp_releaseQueue (s : State) (n : LotNo) : (s.takeStamp n).releaseQueue = s.releaseQueue := rfl

/-! ### `State.toHunt` -/

@[simp] theorem State.toHunt_pending (s : State) : s.toHunt.pending = s.pending := rfl
@[simp] theorem State.toHunt_inReset (s : State) : s.toHunt.inReset = s.inReset := rfl
@[simp] theorem State.toHunt_resetCause (s : State) : s.toHunt.resetCause = s.resetCause := rfl
@[simp] theorem State.toHunt_serving (s : State) : s.toHunt.serving = s.serving := rfl
@[simp] theorem State.toHunt_replies (s : State) : s.toHunt.replies = s.replies := rfl
@[simp] theorem State.toHunt_policy (s : State) : s.toHunt.policy = s.policy := rfl
@[simp] theorem State.toHunt_committed (s : State) : s.toHunt.committed = s.committed := rfl
@[simp] theorem State.toHunt_attention (s : State) : s.toHunt.attention = s.attention := rfl
@[simp] theorem State.toHunt_events (s : State) : s.toHunt.events = s.events := rfl
@[simp] theorem State.toHunt_discards (s : State) : s.toHunt.discards = s.discards := rfl
@[simp] theorem State.toHunt_tick (s : State) : s.toHunt.tick = s.tick := rfl
@[simp] theorem State.toHunt_trunks (s : State) : s.toHunt.trunks = s.trunks := rfl
@[simp] theorem State.toHunt_stations (s : State) : s.toHunt.stations = s.stations := rfl
@[simp] theorem State.toHunt_nextRef (s : State) : s.toHunt.nextRef = s.nextRef := rfl
@[simp] theorem State.toHunt_aliases (s : State) : s.toHunt.aliases = s.aliases := rfl
@[simp] theorem State.toHunt_catalog (s : State) : s.toHunt.catalog = s.catalog := rfl
@[simp] theorem State.toHunt_lots (s : State) : s.toHunt.lots = s.lots := rfl
@[simp] theorem State.toHunt_dispatchQueue (s : State) : s.toHunt.dispatchQueue = s.dispatchQueue := rfl
@[simp] theorem State.toHunt_nextStamp (s : State) : s.toHunt.nextStamp = s.nextStamp := rfl
@[simp] theorem State.toHunt_evalPending (s : State) : s.toHunt.evalPending = s.evalPending := rfl
@[simp] theorem State.toHunt_ageDue (s : State) : s.toHunt.ageDue = s.ageDue := rfl
@[simp] theorem State.toHunt_cells (s : State) : s.toHunt.cells = s.cells := rfl
@[simp] theorem State.toHunt_testers (s : State) : s.toHunt.testers = s.testers := rfl
@[simp] theorem State.toHunt_nextInsertion (s : State) : s.toHunt.nextInsertion = s.nextInsertion := rfl
@[simp] theorem State.toHunt_releaseQueue (s : State) : s.toHunt.releaseQueue = s.releaseQueue := rfl

/-! ### `State.gather` -/

@[simp] theorem State.gather_pending (s : State) (b : Byte) : (s.gather b).pending = s.pending := rfl
@[simp] theorem State.gather_inReset (s : State) (b : Byte) : (s.gather b).inReset = s.inReset := rfl
@[simp] theorem State.gather_resetCause (s : State) (b : Byte) : (s.gather b).resetCause = s.resetCause := rfl
@[simp] theorem State.gather_serving (s : State) (b : Byte) : (s.gather b).serving = s.serving := rfl
@[simp] theorem State.gather_replies (s : State) (b : Byte) : (s.gather b).replies = s.replies := rfl
@[simp] theorem State.gather_policy (s : State) (b : Byte) : (s.gather b).policy = s.policy := rfl
@[simp] theorem State.gather_committed (s : State) (b : Byte) : (s.gather b).committed = s.committed := rfl
@[simp] theorem State.gather_attention (s : State) (b : Byte) : (s.gather b).attention = s.attention := rfl
@[simp] theorem State.gather_events (s : State) (b : Byte) : (s.gather b).events = s.events := rfl
@[simp] theorem State.gather_discards (s : State) (b : Byte) : (s.gather b).discards = s.discards := rfl
@[simp] theorem State.gather_tick (s : State) (b : Byte) : (s.gather b).tick = s.tick := rfl
@[simp] theorem State.gather_trunks (s : State) (b : Byte) : (s.gather b).trunks = s.trunks := rfl
@[simp] theorem State.gather_stations (s : State) (b : Byte) : (s.gather b).stations = s.stations := rfl
@[simp] theorem State.gather_nextRef (s : State) (b : Byte) : (s.gather b).nextRef = s.nextRef := rfl
@[simp] theorem State.gather_aliases (s : State) (b : Byte) : (s.gather b).aliases = s.aliases := rfl
@[simp] theorem State.gather_catalog (s : State) (b : Byte) : (s.gather b).catalog = s.catalog := rfl
@[simp] theorem State.gather_lots (s : State) (b : Byte) : (s.gather b).lots = s.lots := rfl
@[simp] theorem State.gather_dispatchQueue (s : State) (b : Byte) : (s.gather b).dispatchQueue = s.dispatchQueue := rfl
@[simp] theorem State.gather_nextStamp (s : State) (b : Byte) : (s.gather b).nextStamp = s.nextStamp := rfl
@[simp] theorem State.gather_evalPending (s : State) (b : Byte) : (s.gather b).evalPending = s.evalPending := rfl
@[simp] theorem State.gather_ageDue (s : State) (b : Byte) : (s.gather b).ageDue = s.ageDue := rfl
@[simp] theorem State.gather_cells (s : State) (b : Byte) : (s.gather b).cells = s.cells := rfl
@[simp] theorem State.gather_testers (s : State) (b : Byte) : (s.gather b).testers = s.testers := rfl
@[simp] theorem State.gather_nextInsertion (s : State) (b : Byte) : (s.gather b).nextInsertion = s.nextInsertion := rfl
@[simp] theorem State.gather_releaseQueue (s : State) (b : Byte) : (s.gather b).releaseQueue = s.releaseQueue := rfl

/-! ### `State.withPending` -/

@[simp] theorem State.withPending_inReset (s : State) (q : List Instr) : (s.withPending q).inReset = s.inReset := rfl
@[simp] theorem State.withPending_resetCause (s : State) (q : List Instr) : (s.withPending q).resetCause = s.resetCause := rfl
@[simp] theorem State.withPending_receiver (s : State) (q : List Instr) : (s.withPending q).receiver = s.receiver := rfl
@[simp] theorem State.withPending_serving (s : State) (q : List Instr) : (s.withPending q).serving = s.serving := rfl
@[simp] theorem State.withPending_replies (s : State) (q : List Instr) : (s.withPending q).replies = s.replies := rfl
@[simp] theorem State.withPending_policy (s : State) (q : List Instr) : (s.withPending q).policy = s.policy := rfl
@[simp] theorem State.withPending_committed (s : State) (q : List Instr) : (s.withPending q).committed = s.committed := rfl
@[simp] theorem State.withPending_attention (s : State) (q : List Instr) : (s.withPending q).attention = s.attention := rfl
@[simp] theorem State.withPending_events (s : State) (q : List Instr) : (s.withPending q).events = s.events := rfl
@[simp] theorem State.withPending_discards (s : State) (q : List Instr) : (s.withPending q).discards = s.discards := rfl
@[simp] theorem State.withPending_tick (s : State) (q : List Instr) : (s.withPending q).tick = s.tick := rfl
@[simp] theorem State.withPending_trunks (s : State) (q : List Instr) : (s.withPending q).trunks = s.trunks := rfl
@[simp] theorem State.withPending_stations (s : State) (q : List Instr) : (s.withPending q).stations = s.stations := rfl
@[simp] theorem State.withPending_nextRef (s : State) (q : List Instr) : (s.withPending q).nextRef = s.nextRef := rfl
@[simp] theorem State.withPending_aliases (s : State) (q : List Instr) : (s.withPending q).aliases = s.aliases := rfl
@[simp] theorem State.withPending_catalog (s : State) (q : List Instr) : (s.withPending q).catalog = s.catalog := rfl
@[simp] theorem State.withPending_lots (s : State) (q : List Instr) : (s.withPending q).lots = s.lots := rfl
@[simp] theorem State.withPending_dispatchQueue (s : State) (q : List Instr) : (s.withPending q).dispatchQueue = s.dispatchQueue := rfl
@[simp] theorem State.withPending_nextStamp (s : State) (q : List Instr) : (s.withPending q).nextStamp = s.nextStamp := rfl
@[simp] theorem State.withPending_evalPending (s : State) (q : List Instr) : (s.withPending q).evalPending = s.evalPending := rfl
@[simp] theorem State.withPending_ageDue (s : State) (q : List Instr) : (s.withPending q).ageDue = s.ageDue := rfl
@[simp] theorem State.withPending_cells (s : State) (q : List Instr) : (s.withPending q).cells = s.cells := rfl
@[simp] theorem State.withPending_testers (s : State) (q : List Instr) : (s.withPending q).testers = s.testers := rfl
@[simp] theorem State.withPending_nextInsertion (s : State) (q : List Instr) : (s.withPending q).nextInsertion = s.nextInsertion := rfl
@[simp] theorem State.withPending_releaseQueue (s : State) (q : List Instr) : (s.withPending q).releaseQueue = s.releaseQueue := rfl

/-! ### `State.post` -/

@[simp] theorem State.post_pending (s : State) (k : EventKind) (subject : BitVec 32) (detail : List Byte) : (s.post k subject detail).pending = s.pending := by unfold State.post; split <;> rfl
@[simp] theorem State.post_inReset (s : State) (k : EventKind) (subject : BitVec 32) (detail : List Byte) : (s.post k subject detail).inReset = s.inReset := by unfold State.post; split <;> rfl
@[simp] theorem State.post_resetCause (s : State) (k : EventKind) (subject : BitVec 32) (detail : List Byte) : (s.post k subject detail).resetCause = s.resetCause := by unfold State.post; split <;> rfl
@[simp] theorem State.post_receiver (s : State) (k : EventKind) (subject : BitVec 32) (detail : List Byte) : (s.post k subject detail).receiver = s.receiver := by unfold State.post; split <;> rfl
@[simp] theorem State.post_serving (s : State) (k : EventKind) (subject : BitVec 32) (detail : List Byte) : (s.post k subject detail).serving = s.serving := by unfold State.post; split <;> rfl
@[simp] theorem State.post_replies (s : State) (k : EventKind) (subject : BitVec 32) (detail : List Byte) : (s.post k subject detail).replies = s.replies := by unfold State.post; split <;> rfl
@[simp] theorem State.post_policy (s : State) (k : EventKind) (subject : BitVec 32) (detail : List Byte) : (s.post k subject detail).policy = s.policy := by unfold State.post; split <;> rfl
@[simp] theorem State.post_committed (s : State) (k : EventKind) (subject : BitVec 32) (detail : List Byte) : (s.post k subject detail).committed = s.committed := by unfold State.post; split <;> rfl
@[simp] theorem State.post_attention (s : State) (k : EventKind) (subject : BitVec 32) (detail : List Byte) : (s.post k subject detail).attention = s.attention := by unfold State.post; split <;> rfl
@[simp] theorem State.post_tick (s : State) (k : EventKind) (subject : BitVec 32) (detail : List Byte) : (s.post k subject detail).tick = s.tick := by unfold State.post; split <;> rfl
@[simp] theorem State.post_trunks (s : State) (k : EventKind) (subject : BitVec 32) (detail : List Byte) : (s.post k subject detail).trunks = s.trunks := by unfold State.post; split <;> rfl
@[simp] theorem State.post_stations (s : State) (k : EventKind) (subject : BitVec 32) (detail : List Byte) : (s.post k subject detail).stations = s.stations := by unfold State.post; split <;> rfl
@[simp] theorem State.post_nextRef (s : State) (k : EventKind) (subject : BitVec 32) (detail : List Byte) : (s.post k subject detail).nextRef = s.nextRef := by unfold State.post; split <;> rfl
@[simp] theorem State.post_aliases (s : State) (k : EventKind) (subject : BitVec 32) (detail : List Byte) : (s.post k subject detail).aliases = s.aliases := by unfold State.post; split <;> rfl
@[simp] theorem State.post_catalog (s : State) (k : EventKind) (subject : BitVec 32) (detail : List Byte) : (s.post k subject detail).catalog = s.catalog := by unfold State.post; split <;> rfl
@[simp] theorem State.post_lots (s : State) (k : EventKind) (subject : BitVec 32) (detail : List Byte) : (s.post k subject detail).lots = s.lots := by unfold State.post; split <;> rfl
@[simp] theorem State.post_dispatchQueue (s : State) (k : EventKind) (subject : BitVec 32) (detail : List Byte) : (s.post k subject detail).dispatchQueue = s.dispatchQueue := by unfold State.post; split <;> rfl
@[simp] theorem State.post_nextStamp (s : State) (k : EventKind) (subject : BitVec 32) (detail : List Byte) : (s.post k subject detail).nextStamp = s.nextStamp := by unfold State.post; split <;> rfl
@[simp] theorem State.post_evalPending (s : State) (k : EventKind) (subject : BitVec 32) (detail : List Byte) : (s.post k subject detail).evalPending = s.evalPending := by unfold State.post; split <;> rfl
@[simp] theorem State.post_ageDue (s : State) (k : EventKind) (subject : BitVec 32) (detail : List Byte) : (s.post k subject detail).ageDue = s.ageDue := by unfold State.post; split <;> rfl
@[simp] theorem State.post_cells (s : State) (k : EventKind) (subject : BitVec 32) (detail : List Byte) : (s.post k subject detail).cells = s.cells := by unfold State.post; split <;> rfl
@[simp] theorem State.post_testers (s : State) (k : EventKind) (subject : BitVec 32) (detail : List Byte) : (s.post k subject detail).testers = s.testers := by unfold State.post; split <;> rfl
@[simp] theorem State.post_nextInsertion (s : State) (k : EventKind) (subject : BitVec 32) (detail : List Byte) : (s.post k subject detail).nextInsertion = s.nextInsertion := by unfold State.post; split <;> rfl
@[simp] theorem State.post_releaseQueue (s : State) (k : EventKind) (subject : BitVec 32) (detail : List Byte) : (s.post k subject detail).releaseQueue = s.releaseQueue := by unfold State.post; split <;> rfl

/-! ### `State.trigger` -/

@[simp] theorem State.trigger_pending (s : State) : s.trigger.pending = s.pending := by unfold State.trigger; split <;> rfl
@[simp] theorem State.trigger_inReset (s : State) : s.trigger.inReset = s.inReset := by unfold State.trigger; split <;> rfl
@[simp] theorem State.trigger_resetCause (s : State) : s.trigger.resetCause = s.resetCause := by unfold State.trigger; split <;> rfl
@[simp] theorem State.trigger_receiver (s : State) : s.trigger.receiver = s.receiver := by unfold State.trigger; split <;> rfl
@[simp] theorem State.trigger_serving (s : State) : s.trigger.serving = s.serving := by unfold State.trigger; split <;> rfl
@[simp] theorem State.trigger_replies (s : State) : s.trigger.replies = s.replies := by unfold State.trigger; split <;> rfl
@[simp] theorem State.trigger_policy (s : State) : s.trigger.policy = s.policy := by unfold State.trigger; split <;> rfl
@[simp] theorem State.trigger_committed (s : State) : s.trigger.committed = s.committed := by unfold State.trigger; split <;> rfl
@[simp] theorem State.trigger_attention (s : State) : s.trigger.attention = s.attention := by unfold State.trigger; split <;> rfl
@[simp] theorem State.trigger_events (s : State) : s.trigger.events = s.events := by unfold State.trigger; split <;> rfl
@[simp] theorem State.trigger_discards (s : State) : s.trigger.discards = s.discards := by unfold State.trigger; split <;> rfl
@[simp] theorem State.trigger_tick (s : State) : s.trigger.tick = s.tick := by unfold State.trigger; split <;> rfl
@[simp] theorem State.trigger_trunks (s : State) : s.trigger.trunks = s.trunks := by unfold State.trigger; split <;> rfl
@[simp] theorem State.trigger_stations (s : State) : s.trigger.stations = s.stations := by unfold State.trigger; split <;> rfl
@[simp] theorem State.trigger_nextRef (s : State) : s.trigger.nextRef = s.nextRef := by unfold State.trigger; split <;> rfl
@[simp] theorem State.trigger_aliases (s : State) : s.trigger.aliases = s.aliases := by unfold State.trigger; split <;> rfl
@[simp] theorem State.trigger_catalog (s : State) : s.trigger.catalog = s.catalog := by unfold State.trigger; split <;> rfl
@[simp] theorem State.trigger_lots (s : State) : s.trigger.lots = s.lots := by unfold State.trigger; split <;> rfl
@[simp] theorem State.trigger_dispatchQueue (s : State) : s.trigger.dispatchQueue = s.dispatchQueue := by unfold State.trigger; split <;> rfl
@[simp] theorem State.trigger_nextStamp (s : State) : s.trigger.nextStamp = s.nextStamp := by unfold State.trigger; split <;> rfl
@[simp] theorem State.trigger_ageDue (s : State) : s.trigger.ageDue = s.ageDue := by unfold State.trigger; split <;> rfl
@[simp] theorem State.trigger_cells (s : State) : s.trigger.cells = s.cells := by unfold State.trigger; split <;> rfl
@[simp] theorem State.trigger_testers (s : State) : s.trigger.testers = s.testers := by unfold State.trigger; split <;> rfl
@[simp] theorem State.trigger_nextInsertion (s : State) : s.trigger.nextInsertion = s.nextInsertion := by unfold State.trigger; split <;> rfl
@[simp] theorem State.trigger_releaseQueue (s : State) : s.trigger.releaseQueue = s.releaseQueue := by unfold State.trigger; split <;> rfl

/-! ### `State.enterQueue` -/

@[simp] theorem State.enterQueue_pending (s : State) (n : LotNo) : (s.enterQueue n).pending = s.pending := by simp [State.enterQueue]
@[simp] theorem State.enterQueue_inReset (s : State) (n : LotNo) : (s.enterQueue n).inReset = s.inReset := by simp [State.enterQueue]
@[simp] theorem State.enterQueue_resetCause (s : State) (n : LotNo) : (s.enterQueue n).resetCause = s.resetCause := by simp [State.enterQueue]
@[simp] theorem State.enterQueue_receiver (s : State) (n : LotNo) : (s.enterQueue n).receiver = s.receiver := by simp [State.enterQueue]
@[simp] theorem State.enterQueue_serving (s : State) (n : LotNo) : (s.enterQueue n).serving = s.serving := by simp [State.enterQueue]
@[simp] theorem State.enterQueue_replies (s : State) (n : LotNo) : (s.enterQueue n).replies = s.replies := by simp [State.enterQueue]
@[simp] theorem State.enterQueue_policy (s : State) (n : LotNo) : (s.enterQueue n).policy = s.policy := by simp [State.enterQueue]
@[simp] theorem State.enterQueue_committed (s : State) (n : LotNo) : (s.enterQueue n).committed = s.committed := by simp [State.enterQueue]
@[simp] theorem State.enterQueue_attention (s : State) (n : LotNo) : (s.enterQueue n).attention = s.attention := by simp [State.enterQueue]
@[simp] theorem State.enterQueue_events (s : State) (n : LotNo) : (s.enterQueue n).events = s.events := by simp [State.enterQueue]
@[simp] theorem State.enterQueue_discards (s : State) (n : LotNo) : (s.enterQueue n).discards = s.discards := by simp [State.enterQueue]
@[simp] theorem State.enterQueue_tick (s : State) (n : LotNo) : (s.enterQueue n).tick = s.tick := by simp [State.enterQueue]
@[simp] theorem State.enterQueue_trunks (s : State) (n : LotNo) : (s.enterQueue n).trunks = s.trunks := by simp [State.enterQueue]
@[simp] theorem State.enterQueue_stations (s : State) (n : LotNo) : (s.enterQueue n).stations = s.stations := by simp [State.enterQueue]
@[simp] theorem State.enterQueue_nextRef (s : State) (n : LotNo) : (s.enterQueue n).nextRef = s.nextRef := by simp [State.enterQueue]
@[simp] theorem State.enterQueue_aliases (s : State) (n : LotNo) : (s.enterQueue n).aliases = s.aliases := by simp [State.enterQueue]
@[simp] theorem State.enterQueue_catalog (s : State) (n : LotNo) : (s.enterQueue n).catalog = s.catalog := by simp [State.enterQueue]
@[simp] theorem State.enterQueue_lots (s : State) (n : LotNo) : (s.enterQueue n).lots = s.lots := by simp [State.enterQueue]
@[simp] theorem State.enterQueue_nextStamp (s : State) (n : LotNo) : (s.enterQueue n).nextStamp = s.nextStamp := by simp [State.enterQueue]
@[simp] theorem State.enterQueue_ageDue (s : State) (n : LotNo) : (s.enterQueue n).ageDue = s.ageDue := by simp [State.enterQueue]
@[simp] theorem State.enterQueue_cells (s : State) (n : LotNo) : (s.enterQueue n).cells = s.cells := by simp [State.enterQueue]
@[simp] theorem State.enterQueue_testers (s : State) (n : LotNo) : (s.enterQueue n).testers = s.testers := by simp [State.enterQueue]
@[simp] theorem State.enterQueue_nextInsertion (s : State) (n : LotNo) : (s.enterQueue n).nextInsertion = s.nextInsertion := by simp [State.enterQueue]
@[simp] theorem State.enterQueue_releaseQueue (s : State) (n : LotNo) : (s.enterQueue n).releaseQueue = s.releaseQueue := by simp [State.enterQueue]

/-! ### What the updates write -/

@[simp] theorem State.placeReply_replies (s : State) (kind tag : Byte) (st : Status) (fields : List Byte) :
    (s.placeReply kind tag st fields).replies = s.replies ++ [{ kind := replyKind kind, tag := tag, payload := u8 st.code ++ fields }] :=
  rfl
@[simp] theorem State.answer_replies (s : State) (kind tag : Byte) (st : Status) (fields : List Byte) :
    (s.answer kind tag st fields).replies = s.replies ++ [{ kind := replyKind kind, tag := tag, payload := u8 st.code ++ fields }] :=
  rfl
@[simp] theorem State.answer_serving (s : State) (kind tag : Byte) (st : Status) (fields : List Byte) :
    (s.answer kind tag st fields).serving = none := rfl
@[simp] theorem State.withPending_pending (s : State) (q : List Instr) : (s.withPending q).pending = q := rfl
@[simp] theorem State.toHunt_receiver (s : State) : s.toHunt.receiver = { phase := .hunt, buffer := [] } := rfl
@[simp] theorem State.modLot_lots (s : State) (n : LotNo) (f : Lot → Lot) :
    (s.modLot n f).lots = s.lots.map fun l => if l.number = n then f l else l := rfl
@[simp] theorem State.leaveQueue_dispatchQueue (s : State) (n : LotNo) :
    (s.leaveQueue n).dispatchQueue = s.dispatchQueue.filter fun m => m != n := rfl
@[simp] theorem State.takeStamp_nextStamp (s : State) (n : LotNo) : (s.takeStamp n).nextStamp = s.nextStamp + 1 := rfl
@[simp] theorem State.enterQueue_dispatchQueue (s : State) (n : LotNo) :
    (s.enterQueue n).dispatchQueue = putBy BitVec.toNat n s.dispatchQueue := by
  unfold State.enterQueue State.trigger; split <;> rfl
@[simp] theorem State.trigger_evalPending (s : State) : s.trigger.evalPending = (s.evalPending || s.committed) := by
  unfold State.trigger; split <;> simp_all

/-! ### Records by number after an update -/

@[simp] theorem State.station_setStation (s : State) (p q : Place) (x : Station) :
    (s.setStation p x).station q = if p = q then x else s.station q := by
  simp [State.setStation, State.station, Fin.getElem_fin, Vector.getElem_set, Fin.ext_iff]
@[simp] theorem State.trunk_setTrunk (s : State) (t u : TrunkNo) (x : Trunk) :
    (s.setTrunk t x).trunk u = if t = u then x else s.trunk u := by
  simp [State.setTrunk, State.trunk, Fin.getElem_fin, Vector.getElem_set, Fin.ext_iff]
@[simp] theorem State.cell_setCell (s : State) (c d : CellNo) (x : Cell) :
    (s.setCell c x).cell d = if c = d then x else s.cell d := by
  simp [State.setCell, State.cell, Fin.getElem_fin, Vector.getElem_set, Fin.ext_iff]
@[simp] theorem State.tester_setTester (s : State) (p q : Place) (x : Tester) :
    (s.setTester p x).tester q = if p = q then x else s.tester q := by
  simp [State.setTester, State.tester, Fin.getElem_fin, Vector.getElem_set, Fin.ext_iff]
@[simp] theorem State.station_modStation (s : State) (p q : Place) (f : Station → Station) :
    (s.modStation p f).station q = if p = q then f (s.station p) else s.station q := by simp [State.modStation]
@[simp] theorem State.cell_modCell (s : State) (c d : CellNo) (f : Cell → Cell) :
    (s.modCell c f).cell d = if c = d then f (s.cell c) else s.cell d := by simp [State.modCell]
@[simp] theorem State.tester_modTester (s : State) (p q : Place) (f : Tester → Tester) :
    (s.modTester p f).tester q = if p = q then f (s.tester p) else s.tester q := by simp [State.modTester]

/-! ### Records by number over the other updates -/

@[simp] theorem State.station_setTrunk (s : State) (t : TrunkNo) (x : Trunk) (r : Place) : (s.setTrunk t x).station r = s.station r := by simp [State.station]
@[simp] theorem State.station_setCell (s : State) (c : CellNo) (x : Cell) (r : Place) : (s.setCell c x).station r = s.station r := by simp [State.station]
@[simp] theorem State.station_setTester (s : State) (p : Place) (x : Tester) (r : Place) : (s.setTester p x).station r = s.station r := by simp [State.station]
@[simp] theorem State.station_modCell (s : State) (c : CellNo) (f : Cell → Cell) (r : Place) : (s.modCell c f).station r = s.station r := by simp [State.station]
@[simp] theorem State.station_modTester (s : State) (p : Place) (f : Tester → Tester) (r : Place) : (s.modTester p f).station r = s.station r := by simp [State.station]
@[simp] theorem State.station_modLot (s : State) (n : LotNo) (f : Lot → Lot) (r : Place) : (s.modLot n f).station r = s.station r := by simp [State.station]
@[simp] theorem State.station_putProduct (s : State) (e : Product) (r : Place) : (s.putProduct e).station r = s.station r := by simp [State.station]
@[simp] theorem State.station_dropProduct (s : State) (n : ProductNo) (r : Place) : (s.dropProduct n).station r = s.station r := by simp [State.station]
@[simp] theorem State.station_placeReply (s : State) (kind tag : Byte) (st : Status) (fields : List Byte) (r : Place) : (s.placeReply kind tag st fields).station r = s.station r := by simp [State.station]
@[simp] theorem State.station_answer (s : State) (kind tag : Byte) (st : Status) (fields : List Byte) (r : Place) : (s.answer kind tag st fields).station r = s.station r := by simp [State.station]
@[simp] theorem State.station_replied (s : State) (kind tag : Byte) (payload : List Byte) (r : Place) : (s.replied kind tag payload).station r = s.station r := by simp [State.station]
@[simp] theorem State.station_leaveQueue (s : State) (n : LotNo) (r : Place) : (s.leaveQueue n).station r = s.station r := by simp [State.station]
@[simp] theorem State.station_takeStamp (s : State) (n : LotNo) (r : Place) : (s.takeStamp n).station r = s.station r := by simp [State.station]
@[simp] theorem State.station_toHunt (s : State) (r : Place) : s.toHunt.station r = s.station r := by simp [State.station]
@[simp] theorem State.station_gather (s : State) (b : Byte) (r : Place) : (s.gather b).station r = s.station r := by simp [State.station]
@[simp] theorem State.station_withPending (s : State) (q : List Instr) (r : Place) : (s.withPending q).station r = s.station r := by simp [State.station]
@[simp] theorem State.station_post (s : State) (k : EventKind) (subject : BitVec 32) (detail : List Byte) (r : Place) : (s.post k subject detail).station r = s.station r := by simp [State.station]
@[simp] theorem State.station_trigger (s : State) (r : Place) : s.trigger.station r = s.station r := by simp [State.station]
@[simp] theorem State.station_enterQueue (s : State) (n : LotNo) (r : Place) : (s.enterQueue n).station r = s.station r := by simp [State.station]
@[simp] theorem State.trunk_setStation (s : State) (p : Place) (x : Station) (u : TrunkNo) : (s.setStation p x).trunk u = s.trunk u := by simp [State.trunk]
@[simp] theorem State.trunk_setCell (s : State) (c : CellNo) (x : Cell) (u : TrunkNo) : (s.setCell c x).trunk u = s.trunk u := by simp [State.trunk]
@[simp] theorem State.trunk_setTester (s : State) (p : Place) (x : Tester) (u : TrunkNo) : (s.setTester p x).trunk u = s.trunk u := by simp [State.trunk]
@[simp] theorem State.trunk_modStation (s : State) (p : Place) (f : Station → Station) (u : TrunkNo) : (s.modStation p f).trunk u = s.trunk u := by simp [State.trunk]
@[simp] theorem State.trunk_modCell (s : State) (c : CellNo) (f : Cell → Cell) (u : TrunkNo) : (s.modCell c f).trunk u = s.trunk u := by simp [State.trunk]
@[simp] theorem State.trunk_modTester (s : State) (p : Place) (f : Tester → Tester) (u : TrunkNo) : (s.modTester p f).trunk u = s.trunk u := by simp [State.trunk]
@[simp] theorem State.trunk_modLot (s : State) (n : LotNo) (f : Lot → Lot) (u : TrunkNo) : (s.modLot n f).trunk u = s.trunk u := by simp [State.trunk]
@[simp] theorem State.trunk_putProduct (s : State) (e : Product) (u : TrunkNo) : (s.putProduct e).trunk u = s.trunk u := by simp [State.trunk]
@[simp] theorem State.trunk_dropProduct (s : State) (n : ProductNo) (u : TrunkNo) : (s.dropProduct n).trunk u = s.trunk u := by simp [State.trunk]
@[simp] theorem State.trunk_placeReply (s : State) (kind tag : Byte) (st : Status) (fields : List Byte) (u : TrunkNo) : (s.placeReply kind tag st fields).trunk u = s.trunk u := by simp [State.trunk]
@[simp] theorem State.trunk_answer (s : State) (kind tag : Byte) (st : Status) (fields : List Byte) (u : TrunkNo) : (s.answer kind tag st fields).trunk u = s.trunk u := by simp [State.trunk]
@[simp] theorem State.trunk_replied (s : State) (kind tag : Byte) (payload : List Byte) (u : TrunkNo) : (s.replied kind tag payload).trunk u = s.trunk u := by simp [State.trunk]
@[simp] theorem State.trunk_leaveQueue (s : State) (n : LotNo) (u : TrunkNo) : (s.leaveQueue n).trunk u = s.trunk u := by simp [State.trunk]
@[simp] theorem State.trunk_takeStamp (s : State) (n : LotNo) (u : TrunkNo) : (s.takeStamp n).trunk u = s.trunk u := by simp [State.trunk]
@[simp] theorem State.trunk_toHunt (s : State) (u : TrunkNo) : s.toHunt.trunk u = s.trunk u := by simp [State.trunk]
@[simp] theorem State.trunk_gather (s : State) (b : Byte) (u : TrunkNo) : (s.gather b).trunk u = s.trunk u := by simp [State.trunk]
@[simp] theorem State.trunk_withPending (s : State) (q : List Instr) (u : TrunkNo) : (s.withPending q).trunk u = s.trunk u := by simp [State.trunk]
@[simp] theorem State.trunk_post (s : State) (k : EventKind) (subject : BitVec 32) (detail : List Byte) (u : TrunkNo) : (s.post k subject detail).trunk u = s.trunk u := by simp [State.trunk]
@[simp] theorem State.trunk_trigger (s : State) (u : TrunkNo) : s.trigger.trunk u = s.trunk u := by simp [State.trunk]
@[simp] theorem State.trunk_enterQueue (s : State) (n : LotNo) (u : TrunkNo) : (s.enterQueue n).trunk u = s.trunk u := by simp [State.trunk]
@[simp] theorem State.cell_setStation (s : State) (p : Place) (x : Station) (d : CellNo) : (s.setStation p x).cell d = s.cell d := by simp [State.cell]
@[simp] theorem State.cell_setTrunk (s : State) (t : TrunkNo) (x : Trunk) (d : CellNo) : (s.setTrunk t x).cell d = s.cell d := by simp [State.cell]
@[simp] theorem State.cell_setTester (s : State) (p : Place) (x : Tester) (d : CellNo) : (s.setTester p x).cell d = s.cell d := by simp [State.cell]
@[simp] theorem State.cell_modStation (s : State) (p : Place) (f : Station → Station) (d : CellNo) : (s.modStation p f).cell d = s.cell d := by simp [State.cell]
@[simp] theorem State.cell_modTester (s : State) (p : Place) (f : Tester → Tester) (d : CellNo) : (s.modTester p f).cell d = s.cell d := by simp [State.cell]
@[simp] theorem State.cell_modLot (s : State) (n : LotNo) (f : Lot → Lot) (d : CellNo) : (s.modLot n f).cell d = s.cell d := by simp [State.cell]
@[simp] theorem State.cell_putProduct (s : State) (e : Product) (d : CellNo) : (s.putProduct e).cell d = s.cell d := by simp [State.cell]
@[simp] theorem State.cell_dropProduct (s : State) (n : ProductNo) (d : CellNo) : (s.dropProduct n).cell d = s.cell d := by simp [State.cell]
@[simp] theorem State.cell_placeReply (s : State) (kind tag : Byte) (st : Status) (fields : List Byte) (d : CellNo) : (s.placeReply kind tag st fields).cell d = s.cell d := by simp [State.cell]
@[simp] theorem State.cell_answer (s : State) (kind tag : Byte) (st : Status) (fields : List Byte) (d : CellNo) : (s.answer kind tag st fields).cell d = s.cell d := by simp [State.cell]
@[simp] theorem State.cell_replied (s : State) (kind tag : Byte) (payload : List Byte) (d : CellNo) : (s.replied kind tag payload).cell d = s.cell d := by simp [State.cell]
@[simp] theorem State.cell_leaveQueue (s : State) (n : LotNo) (d : CellNo) : (s.leaveQueue n).cell d = s.cell d := by simp [State.cell]
@[simp] theorem State.cell_takeStamp (s : State) (n : LotNo) (d : CellNo) : (s.takeStamp n).cell d = s.cell d := by simp [State.cell]
@[simp] theorem State.cell_toHunt (s : State) (d : CellNo) : s.toHunt.cell d = s.cell d := by simp [State.cell]
@[simp] theorem State.cell_gather (s : State) (b : Byte) (d : CellNo) : (s.gather b).cell d = s.cell d := by simp [State.cell]
@[simp] theorem State.cell_withPending (s : State) (q : List Instr) (d : CellNo) : (s.withPending q).cell d = s.cell d := by simp [State.cell]
@[simp] theorem State.cell_post (s : State) (k : EventKind) (subject : BitVec 32) (detail : List Byte) (d : CellNo) : (s.post k subject detail).cell d = s.cell d := by simp [State.cell]
@[simp] theorem State.cell_trigger (s : State) (d : CellNo) : s.trigger.cell d = s.cell d := by simp [State.cell]
@[simp] theorem State.cell_enterQueue (s : State) (n : LotNo) (d : CellNo) : (s.enterQueue n).cell d = s.cell d := by simp [State.cell]
@[simp] theorem State.tester_setStation (s : State) (p : Place) (x : Station) (r : Place) : (s.setStation p x).tester r = s.tester r := by simp [State.tester]
@[simp] theorem State.tester_setTrunk (s : State) (t : TrunkNo) (x : Trunk) (r : Place) : (s.setTrunk t x).tester r = s.tester r := by simp [State.tester]
@[simp] theorem State.tester_setCell (s : State) (c : CellNo) (x : Cell) (r : Place) : (s.setCell c x).tester r = s.tester r := by simp [State.tester]
@[simp] theorem State.tester_modStation (s : State) (p : Place) (f : Station → Station) (r : Place) : (s.modStation p f).tester r = s.tester r := by simp [State.tester]
@[simp] theorem State.tester_modCell (s : State) (c : CellNo) (f : Cell → Cell) (r : Place) : (s.modCell c f).tester r = s.tester r := by simp [State.tester]
@[simp] theorem State.tester_modLot (s : State) (n : LotNo) (f : Lot → Lot) (r : Place) : (s.modLot n f).tester r = s.tester r := by simp [State.tester]
@[simp] theorem State.tester_putProduct (s : State) (e : Product) (r : Place) : (s.putProduct e).tester r = s.tester r := by simp [State.tester]
@[simp] theorem State.tester_dropProduct (s : State) (n : ProductNo) (r : Place) : (s.dropProduct n).tester r = s.tester r := by simp [State.tester]
@[simp] theorem State.tester_placeReply (s : State) (kind tag : Byte) (st : Status) (fields : List Byte) (r : Place) : (s.placeReply kind tag st fields).tester r = s.tester r := by simp [State.tester]
@[simp] theorem State.tester_answer (s : State) (kind tag : Byte) (st : Status) (fields : List Byte) (r : Place) : (s.answer kind tag st fields).tester r = s.tester r := by simp [State.tester]
@[simp] theorem State.tester_replied (s : State) (kind tag : Byte) (payload : List Byte) (r : Place) : (s.replied kind tag payload).tester r = s.tester r := by simp [State.tester]
@[simp] theorem State.tester_leaveQueue (s : State) (n : LotNo) (r : Place) : (s.leaveQueue n).tester r = s.tester r := by simp [State.tester]
@[simp] theorem State.tester_takeStamp (s : State) (n : LotNo) (r : Place) : (s.takeStamp n).tester r = s.tester r := by simp [State.tester]
@[simp] theorem State.tester_toHunt (s : State) (r : Place) : s.toHunt.tester r = s.tester r := by simp [State.tester]
@[simp] theorem State.tester_gather (s : State) (b : Byte) (r : Place) : (s.gather b).tester r = s.tester r := by simp [State.tester]
@[simp] theorem State.tester_withPending (s : State) (q : List Instr) (r : Place) : (s.withPending q).tester r = s.tester r := by simp [State.tester]
@[simp] theorem State.tester_post (s : State) (k : EventKind) (subject : BitVec 32) (detail : List Byte) (r : Place) : (s.post k subject detail).tester r = s.tester r := by simp [State.tester]
@[simp] theorem State.tester_trigger (s : State) (r : Place) : s.trigger.tester r = s.tester r := by simp [State.tester]
@[simp] theorem State.tester_enterQueue (s : State) (n : LotNo) (r : Place) : (s.enterQueue n).tester r = s.tester r := by simp [State.tester]

end Sys2Proof.Machine
end

