-- ==== Sys2Proof/Laws/Ops.lean ====
section
/-! SUPPORT. For each shared operation, what it can do, said once: tables held by key, lookups and their refusals, events,
triggers, offers, and how a request row and an event row come out. -/

namespace Sys2Proof.Machine

/-! ### Tables held by ascending key -/

section Tables
variable {α : Type} {key : α → Nat}

theorem mem_putBy (x y : α) (ys : List α) (h : y ∈ putBy key x ys) : y = x ∨ y ∈ ys := by
  induction ys with
  | nil => simpa [putBy] using h
  | cons z zs ih =>
    simp only [putBy] at h
    split at h
    · simpa using h
    · split at h
      · simp only [List.mem_cons] at h ⊢; tauto
      · simp only [List.mem_cons] at h ⊢
        rcases h with h | h
        · exact .inr (.inl h)
        · rcases ih h with h | h
          · exact .inl h
          · exact .inr (.inr h)

theorem mem_putBy_self (x : α) (ys : List α) : x ∈ putBy key x ys := by
  induction ys with
  | nil => simp [putBy]
  | cons z zs ih =>
    simp only [putBy]
    split
    · simp
    · split
      · simp
      · simp [ih]

/-- An item of another key stays. -/
theorem mem_putBy_of_ne (x y : α) (ys : List α) (h : y ∈ ys) (hk : key y ≠ key x) : y ∈ putBy key x ys := by
  induction ys with
  | nil => simp at h
  | cons z zs ih =>
    simp only [putBy]
    split
    · exact List.mem_cons_of_mem _ h
    · split
      · rename_i hz
        rcases List.mem_cons.1 h with rfl | h
        · exact absurd hz.symm hk
        · exact List.mem_cons_of_mem _ h
      · rcases List.mem_cons.1 h with rfl | h
        · exact List.mem_cons_self
        · exact List.mem_cons_of_mem _ (ih h)

/-- A table in strictly ascending key stays one. -/
theorem putBy_pairwise (x : α) (ys : List α) (h : ys.Pairwise fun a b => key a < key b) :
    (putBy key x ys).Pairwise fun a b => key a < key b := by
  induction ys with
  | nil => simp [putBy]
  | cons z zs ih =>
    obtain ⟨hz, hs⟩ := List.pairwise_cons.1 h
    simp only [putBy]
    split
    · rename_i hx
      refine List.pairwise_cons.2 ⟨fun y hy => ?_, h⟩
      rcases List.mem_cons.1 hy with rfl | hy
      · exact hx
      · exact hx.trans (hz y hy)
    · split
      · rename_i hx
        exact List.pairwise_cons.2 ⟨fun y hy => hx ▸ hz y hy, hs⟩
      · refine List.pairwise_cons.2 ⟨fun y hy => ?_, ih hs⟩
        rcases mem_putBy x y zs hy with rfl | hy
        · omega
        · exact hz y hy

theorem length_putBy_le (x : α) (ys : List α) : (putBy key x ys).length ≤ ys.length + 1 := by
  induction ys with
  | nil => simp [putBy]
  | cons z zs ih =>
    simp only [putBy]
    split
    · simp
    · split
      · simp
      · simp only [List.length_cons]; omega

/-- A table keeps its length where the key is in it. -/
theorem length_putBy_of_mem (x : α) (ys : List α) (h : ys.Pairwise fun a b => key a < key b) (hx : ∃ y ∈ ys, key y = key x) :
    (putBy key x ys).length = ys.length := by
  induction ys with
  | nil => simp at hx
  | cons z zs ih =>
    obtain ⟨hz, hs⟩ := List.pairwise_cons.1 h
    obtain ⟨y, hy, hk⟩ := hx
    simp only [putBy]
    split
    · rename_i hx
      rcases List.mem_cons.1 hy with rfl | hy
      · omega
      · have := hz y hy; omega
    · split
      · simp
      · rename_i hne
        rcases List.mem_cons.1 hy with rfl | hy
        · exact absurd hk.symm hne
        · simp [ih hs ⟨y, hy, hk⟩]

/-- Looking up by key after a write: the item written under its key, and under another key what was there. -/
theorem find?_putBy (p : α → Bool) (k : Nat) (hp : ∀ y, p y = true ↔ key y = k) (x : α) (ys : List α) :
    (putBy key x ys).find? p = if key x = k then some x else ys.find? p := by
  induction ys with
  | nil => by_cases h : key x = k <;> simp [putBy, h, (hp x).2, mt (hp x).1]
  | cons z zs ih =>
    by_cases hx : key x = k
    · have hpx : p x = true := (hp x).2 hx
      simp only [putBy, hx, if_true] at ih ⊢
      split
      · simp [hpx]
      · split
        · simp [hpx]
        · rename_i hne
          have : p z = false := by simpa using mt (hp z).1 (fun h => hne (by omega))
          simp [this, ih]
    · have hpx : p x = false := by simpa using mt (hp x).1 hx
      simp only [putBy, hx, if_false] at ih ⊢
      split
      · simp [hpx]
      · split
        · rename_i he
          have : p z = false := by simpa using mt (hp z).1 (fun h => hx (by omega))
          simp [hpx, this]
        · simp [ih, List.find?_cons]

theorem mem_insertOrd (before : α → α → Bool) (x y : α) (ys : List α) : y ∈ insertOrd before x ys ↔ y = x ∨ y ∈ ys := by
  induction ys with
  | nil => simp [insertOrd]
  | cons z zs ih =>
    simp only [insertOrd]
    split
    · simp
    · simp [ih]; tauto

/-- Sorting keeps the items. -/
theorem mem_sortOrd (before : α → α → Bool) (y : α) (ys : List α) : y ∈ sortOrd before ys ↔ y ∈ ys := by
  induction ys with
  | nil => simp [sortOrd]
  | cons z zs ih => simp [sortOrd, mem_insertOrd, ih]

end Tables

/-! ### Lookups and the refusals of a number that names nothing -/

theorem State.resolve_eq_ok {s : State} {al : Byte} {e : AliasEntry} : s.resolve al = .ok e ↔ s.HasAlias al e := by
  unfold State.resolve State.HasAlias
  by_cases h : al = 0 ∨ al = 255
  · rw [if_pos h]
    exact ⟨fun h => (nomatch h), fun ⟨h0, h1, _⟩ => absurd h (by tauto)⟩
  · rw [if_neg h]
    rw [not_or] at h
    cases s.alias? al with
    | none => exact ⟨fun h => (nomatch h), fun ⟨_, _, h⟩ => (nomatch h)⟩
    | some e' => exact ⟨fun h' => ⟨h.1, h.2, by cases h'; rfl⟩, fun ⟨_, _, h'⟩ => by cases h'; rfl⟩

theorem State.resolve_zero_or_top {s : State} {al : Byte} (h : al = 0 ∨ al = 255) : s.resolve al = .error .range := by
  unfold State.resolve; rw [if_pos h]

theorem State.resolve_unknown {s : State} {al : Byte} (h0 : al ≠ 0) (h1 : al ≠ 255) (h : s.alias? al = none) :
    s.resolve al = .error .noSuch := by
  unfold State.resolve; rw [if_neg (not_or.2 ⟨h0, h1⟩), h]

theorem State.resolveSingle_eq_ok {s : State} {al : Byte} {p : Place} :
    s.resolveSingle al = .ok p ↔ s.SingleAlias al p := by
  constructor
  · intro h
    unfold State.resolveSingle at h
    split at h
    · cases h
    · rename_i e he
      split at h
      · rename_i q hm
        cases h
        exact ⟨e, State.resolve_eq_ok.1 he, hm⟩
      · cases h
  · rintro ⟨e, he, hm⟩
    simp [State.resolveSingle, State.resolve_eq_ok.2 he, hm]

theorem State.resolveSingle_group {s : State} {al : Byte} {e : AliasEntry} (h : s.HasAlias al e) (hm : 2 ≤ e.members.length) :
    s.resolveSingle al = .error .aliasGroup := by
  obtain ⟨number, members, answering⟩ := e
  rcases members with _ | ⟨a, _ | ⟨b, r⟩⟩
  · simp at hm
  · simp at hm
  · simp [State.resolveSingle, State.resolve_eq_ok.2 h]

theorem State.resolveTester_eq_ok {s : State} {al : Byte} {p : Place} :
    s.resolveTester al = .ok p ↔ s.TesterAlias al p := by
  constructor
  · intro h
    unfold State.resolveTester at h
    split at h
    · cases h
    · rename_i q hq
      split at h
      · cases h
      · split at h
        · cases h
        · rename_i h0 h1
          cases h
          exact ⟨State.resolveSingle_eq_ok.1 hq, h0, by simpa using h1⟩
  · rintro ⟨h, h0, h1⟩
    simp [State.resolveTester, State.resolveSingle_eq_ok.2 h, h0, h1]

theorem State.resolveTester_absent {s : State} {al : Byte} {p : Place} (h : s.SingleAlias al p)
    (h0 : (s.station p).state = .absent) : s.resolveTester al = .error .stationAbsent := by
  simp [State.resolveTester, State.resolveSingle_eq_ok.2 h, h0]

theorem State.resolveTester_handler {s : State} {al : Byte} {p : Place} (h : s.SingleAlias al p)
    (h0 : (s.station p).state ≠ .absent) (h1 : (s.station p).kind ≠ some .tester) :
    s.resolveTester al = .error .kindMismatch := by
  simp [State.resolveTester, State.resolveSingle_eq_ok.2 h, h0, h1]

theorem State.findLot_eq_ok {s : State} {n : LotNo} {l : Lot} : s.findLot n = .ok l ↔ s.HasLot n l := by
  unfold State.findLot State.HasLot
  by_cases h : n = 0
  · rw [if_pos h]
    exact ⟨fun h => (nomatch h), fun h' => absurd h h'.1⟩
  · rw [if_neg h]
    cases s.lot? n with
    | none => exact ⟨fun h => (nomatch h), fun h => (nomatch h.2)⟩
    | some m => exact ⟨fun h' => ⟨h, by cases h'; rfl⟩, fun h' => by cases h'.2; rfl⟩

theorem State.findProduct_eq_ok {s : State} {n : ProductNo} {e : Product} : s.findProduct n = .ok e ↔ s.HasProduct n e := by
  unfold State.findProduct State.HasProduct
  by_cases h : n = 0
  · rw [if_pos h]
    exact ⟨fun h => (nomatch h), fun h' => absurd h h'.1⟩
  · rw [if_neg h]
    cases s.product? n with
    | none => exact ⟨fun h => (nomatch h), fun h => (nomatch h.2)⟩
    | some m => exact ⟨fun h' => ⟨h, by cases h'; rfl⟩, fun h' => by cases h'.2; rfl⟩

theorem State.lot?_number {s : State} {n : LotNo} {l : Lot} (h : s.lot? n = some l) : l.number = n := by
  simpa using List.find?_some h

theorem State.mem_of_lot? {s : State} {n : LotNo} {l : Lot} (h : s.lot? n = some l) : l ∈ s.lots :=
  List.mem_of_find?_eq_some h

/-- R56: in an ordered table a record is found under its number. -/
theorem State.lot?_of_mem {s : State} (ho : s.LotsOrdered) {l : Lot} (h : l ∈ s.lots) : s.lot? l.number = some l := by
  have ho' : s.lots.Pairwise fun a b => a.number.toNat < b.number.toNat := ho
  unfold State.lot?
  generalize s.lots = ls at ho' h
  induction ls with
  | nil => simp at h
  | cons m ms ih =>
    obtain ⟨hm, hs⟩ := List.pairwise_cons.1 ho'
    rcases List.mem_cons.1 h with rfl | h
    · simp
    · have := hm l h
      have hne : (m.number == l.number) = false := by
        simp only [beq_eq_false_iff_ne, ne_eq]
        intro e; rw [e] at this; omega
      simp [hne, ih hs h]

/-- What the lot table holds after a record is changed under its number. -/
theorem State.lot?_modLot (s : State) (n m : LotNo) (f : Lot → Lot) (hf : ∀ l, (f l).number = l.number) :
    (s.modLot n f).lot? m = if m = n then (s.lot? m).map f else s.lot? m := by
  unfold State.lot? State.modLot
  simp only
  generalize s.lots = ls
  induction ls with
  | nil => simp
  | cons l ls ih =>
    simp only [List.map_cons, List.find?_cons]
    have hnum : (if l.number = n then f l else l).number = l.number := by split <;> simp [hf]
    rw [hnum]
    by_cases hm : l.number = m
    · subst hm
      by_cases hn : l.number = n <;> simp [hn]
    · have : (l.number == m) = false := by simpa using hm
      rw [this]
      simpa using ih

theorem State.product?_putProduct (s : State) (e : Product) (n : ProductNo) :
    (s.putProduct e).product? n = if e.number = n then some e else s.product? n := by
  have h := find?_putBy (key := fun x : Product => x.number.toNat) (fun y => y.number == n) n.toNat
    (by intro y; simp [BitVec.toNat_inj]) e s.catalog
  simpa [State.product?, State.putProduct, BitVec.toNat_inj] using h

theorem State.product?_dropProduct (s : State) (m n : ProductNo) :
    (s.dropProduct m).product? n = if n = m then none else s.product? n := by
  unfold State.product? State.dropProduct
  simp only
  generalize s.catalog = es
  induction es with
  | nil => simp
  | cons e es ih =>
    by_cases h : e.number = m
    · simp only [List.filter_cons, h, bne_self_eq_false, Bool.false_eq_true, if_false, ih, List.find?_cons]
      by_cases hn : n = m
      · simp [hn]
      · have : (m == n) = false := by simpa using Ne.symm hn
        simp [hn, this]
    · have : (e.number != m) = true := by simpa using h
      simp only [List.filter_cons, this, if_true, List.find?_cons, ih]
      by_cases hn : e.number = n
      · have : n ≠ m := by rw [← hn]; exact h
        simp [hn, this]
      · have : (e.number == n) = false := by simpa using hn
        simp [this]

/-! ### Events and triggers (R8, R120) -/

/-- R8: what posting does: a record joins the tail, or the queue is full and it is counted. -/
theorem State.post_posted (s : State) (k : EventKind) (subject : BitVec 32) (detail : List Byte) :
    s.Posted (s.post k subject detail) k subject detail := by
  unfold State.Posted State.post
  by_cases h : s.events.length < 64
  · have h' : s.events.length < Config.eventRoom := h
    simp [h, h']
  · have h' : ¬s.events.length < Config.eventRoom := h
    rw [if_neg h, if_neg h']
    refine ⟨rfl, ?_⟩
    show (if s.discards < 255 then s.discards + 1 else 255) = _
    split <;> omega

/-- Posting changes the event queue and the discard count alone. -/
theorem State.post_rest (s : State) (k : EventKind) (subject : BitVec 32) (detail : List Byte) :
    s.post k subject detail =
      { s with events := (s.post k subject detail).events, discards := (s.post k subject detail).discards } := by
  unfold State.post; split <;> rfl

theorem State.post_extends (s : State) (k : EventKind) (subject : BitVec 32) (detail : List Byte) :
    ∃ more, (s.post k subject detail).events = s.events ++ more ∧
      (s.events.length ≤ 64 → (s.post k subject detail).events.length ≤ 64) := by
  have h := s.post_posted k subject detail
  unfold State.Posted at h
  split at h
  · exact ⟨_, h.1, fun _ => by rw [h.1]; simp; omega⟩
  · exact ⟨[], by simp [h.1], fun h' => by rw [h.1]; exact h'⟩

/-- R120: a trigger sets evaluation pending under a committed policy and changes nothing else. -/
theorem State.trigger_eq (s : State) : s.trigger = { s with evalPending := s.evalPending || s.committed } := by
  unfold State.trigger
  split
  · rename_i h; simp [h]
  · rename_i h
    have h : s.committed = false := by simpa using h
    have he : (s.evalPending || s.committed) = s.evalPending := by rw [h, Bool.or_false]
    rw [he]

theorem State.enterQueue_eq (s : State) (n : LotNo) :
    s.enterQueue n =
      { s with
        dispatchQueue := putBy BitVec.toNat n s.dispatchQueue
        evalPending := s.evalPending || s.committed } := by
  simp [State.enterQueue, State.trigger_eq]

/-! ### Replies -/

theorem replyKind_of_lt {kind : Byte} (h : kind.toNat < 0x80) : replyKind kind = kind + 0x80 := by simp [replyKind, h]

theorem State.placeReply_eq (s : State) (kind tag : Byte) (st : Status) (fields : List Byte) :
    s.placeReply kind tag st fields = s.replied (replyKind kind) tag (u8 st.code ++ fields) := rfl

theorem State.answer_eq (s : State) (kind tag : Byte) (st : Status) (fields : List Byte) :
    s.answer kind tag st fields = { s.replied (replyKind kind) tag (u8 st.code ++ fields) with serving := none } := rfl

theorem State.not_replyListFull_of_listening {s : State} (h : s.Listening) : s.replyListFull = false := by
  obtain ⟨-, h1, h2⟩ := h
  have : ¬Config.replyRoom ≤ s.replies.length := by show ¬4 ≤ s.replies.length; omega
  simp [State.replyListFull, h1, this]

theorem State.takes_of_listening {s : State} (h : s.Listening) (i : Instr) : s.takes i = true := by
  simp [State.takes, h.2.1, State.not_replyListFull_of_listening h]

/-! ### Request rows and event rows (R4 to R7, R16) -/

/-- R4: a request that is taken is served by its block and answered as the serving flag clears. -/
theorem serve_of_listening {s : State} (h : s.Listening) (i : Instr) (tag : Byte) (service : Service) :
    serve i tag service s =
      .next ({ (service s).1 with serving := none }.replied (replyKind (kindOf i)) tag
        (u8 (service s).2.status.code ++ (service s).2.fields)) := by
  simp [serve, h.1, State.takes_of_listening h]; rfl

/-- R7: a request refused with a status alone changes nothing but the reply list. -/
theorem serve_refused {s : State} (h : s.Listening) (i : Instr) (tag : Byte) (service : Service) (st : Status)
    (hs : service s = refuse s st) :
    serve i tag service s = .next (s.replied (replyKind (kindOf i)) tag (u8 st.code)) := by
  rw [serve_of_listening h, hs]
  have : ({ s with serving := none } : State) = s := by rw [← h.2.1]
  simp [refuse, this]

theorem serve_in_reset {s : State} (h : s.inReset.isSome) (i : Instr) (tag : Byte) (service : Service) :
    serve i tag service s = .next s := by simp [serve, h]

/-- R5, R6: a request that is not taken is answered BUSY or dropped. -/
theorem serve_turned_away {s : State} (h : s.inReset = none) (i : Instr) (tag : Byte) (service : Service)
    (ht : s.takes i = false) : serve i tag service s = .next (s.turnedAway (kindOf i) tag) := by
  simp [serve, h, ht]

/-- Every request row goes on, and comes out in one of four ways. -/
theorem serve_cases (i : Instr) (tag : Byte) (service : Service) (s : State) :
    ∃ t, serve i tag service s = .next t ∧
      (t = s ∨ t = s.placeReply (kindOf i) tag .busy [] ∨
        s.inReset = none ∧ s.takes i = true ∧
          t = (service s).1.answer (kindOf i) tag (service s).2.status (service s).2.fields) := by
  unfold serve
  split
  · exact ⟨s, rfl, .inl rfl⟩
  · rename_i hr
    split
    · rename_i ht
      exact ⟨_, rfl, .inr (.inr ⟨by simpa using hr, ht, rfl⟩)⟩
    · unfold State.turnedAway
      split
      · exact ⟨s, rfl, .inl rfl⟩
      · exact ⟨_, rfl, .inr (.inl rfl)⟩

theorem happen_of_occasion {s : State} (h : s.inReset = none) {occasion : Bool} (ho : occasion = true) (effect : State → State) :
    happen occasion effect s = .next (effect s) := by simp [happen, h, ho]

theorem happen_of_not {s : State} {occasion : Bool} (effect : State → State) (h : s.inReset.isSome ∨ occasion = false) :
    happen occasion effect s = .next s := by
  rcases h with h | h
  · cases hr : s.inReset with
    | none => simp [hr] at h
    | some c => simp [happen, hr]
  · simp [happen, h]

/-- Every event row goes on, with its effect or without. -/
theorem happen_cases (occasion : Bool) (effect : State → State) (s : State) :
    ∃ t, happen occasion effect s = .next t ∧ (t = s ∨ s.inReset = none ∧ occasion = true ∧ t = effect s) := by
  unfold happen
  split
  · rename_i h
    simp only [Bool.and_eq_true, Option.isNone_iff_eq_none] at h
    exact ⟨_, rfl, .inr ⟨h.1, h.2, rfl⟩⟩
  · exact ⟨s, rfl, .inl rfl⟩

/-! ### Offers (R29) -/

/-- R29: an offer is taken by the place's queue alone, or fails at once and changes nothing. -/
theorem State.offer_cases (s : State) (p : Place) (cmd : Command) :
    ((s.station p).state ≠ .online ∧ s.offer p cmd = (s, some .notOnline)) ∨
    ((s.station p).state = .online ∧ (s.station p).queueWith cmd = none ∧ s.offer p cmd = (s, some .occupied)) ∨
    ∃ q, (s.station p).state = .online ∧ (s.station p).queueWith cmd = some q ∧
      s.offer p cmd = (s.setStation p { s.station p with queue := q }, none) := by
  unfold State.offer
  split
  · rename_i h; exact .inl ⟨h, rfl⟩
  · rename_i h
    simp only [ne_eq, not_not] at h
    cases hq : (s.station p).queueWith cmd with
    | none => exact .inr (.inl ⟨h, rfl, rfl⟩)
    | some q => exact .inr (.inr ⟨q, h, rfl, rfl⟩)

/-- R29: the queue after an offer is the queue with the command at its head or its tail. -/
theorem Station.queueWith_cases {st : Station} {cmd : Command} {q : List Command} (h : st.queueWith cmd = some q) :
    (cmd.category = .stop ∧ q = cmd :: st.queue) ∨ (cmd.category ≠ .stop ∧ q = st.queue ++ [cmd]) := by
  unfold Station.queueWith at h
  cases hc : cmd.category <;> simp only [hc] at h <;> split at h <;> simp_all

end Sys2Proof.Machine
end

