-- ==== Sys2Proof/Laws/Frame.lean ====
section
/-! SUPPORT. What the work inside the part leaves alone: each shared operation below the requests keeps the waiting commands,
the receiver, the policy, the attention enables, the tick, the alias table, the event records that stand in the queue, what a
lot record and a docked cell keep for life, and the protect floors. -/

set_option linter.unreachableTactic false
set_option linter.unusedTactic false

namespace Sys2Proof.Machine

/-- What the work inside the part leaves alone. The queue of events grows at its tail alone (R8). -/
structure State.Keeps (s t : State) : Prop where
  pending : t.pending = s.pending
  inReset : t.inReset = s.inReset
  resetCause : t.resetCause = s.resetCause
  receiver : t.receiver = s.receiver
  policy : t.policy = s.policy
  committed : t.committed = s.committed
  attention : t.attention = s.attention
  tick : t.tick = s.tick
  aliases : t.aliases = s.aliases
  ageDue : t.ageDue = s.ageDue
  events : ∃ more, t.events = s.events ++ more ∧ (s.events.length ≤ 64 → t.events.length ≤ 64)
  lots : t.lots.map Lot.identity = s.lots.map Lot.identity
  docks : ∀ c, (t.cell c).dock.map Dock.stations = (s.cell c).dock.map Dock.stations
  floors : ∀ p, (t.tester p).protectFloor = (s.tester p).protectFloor ∧
    (t.tester p).floorWritten = (s.tester p).floorWritten


theorem State.Keeps.refl (s : State) : s.Keeps s :=
  ⟨rfl, rfl, rfl, rfl, rfl, rfl, rfl, rfl, rfl, rfl, ⟨[], by simp, fun h => h⟩, rfl, fun _ => rfl, fun _ => ⟨rfl, rfl⟩⟩

theorem State.Keeps.trans {s t u : State} (h : s.Keeps t) (k : t.Keeps u) : s.Keeps u where
  pending := k.pending.trans h.pending
  inReset := k.inReset.trans h.inReset
  resetCause := k.resetCause.trans h.resetCause
  receiver := k.receiver.trans h.receiver
  policy := k.policy.trans h.policy
  committed := k.committed.trans h.committed
  attention := k.attention.trans h.attention
  tick := k.tick.trans h.tick
  aliases := k.aliases.trans h.aliases
  ageDue := k.ageDue.trans h.ageDue
  events := by
    obtain ⟨m, hm, hl⟩ := h.events
    obtain ⟨m', hm', hl'⟩ := k.events
    exact ⟨m ++ m', by rw [hm', hm, List.append_assoc], fun h => hl' (hl h)⟩
  lots := k.lots.trans h.lots
  docks := fun c => (k.docks c).trans (h.docks c)
  floors := fun p => ⟨(k.floors p).1.trans (h.floors p).1, (k.floors p).2.trans (h.floors p).2⟩

/-! ### Updates -/

theorem State.Keeps.setStation {s t : State} (h : s.Keeps t) (p : Place) (x : Station) : s.Keeps (t.setStation p x) :=
  h.trans ⟨rfl, rfl, rfl, rfl, rfl, rfl, rfl, rfl, rfl, rfl, ⟨[], by simp, fun h => h⟩,
    rfl, fun _ => rfl, fun _ => ⟨rfl, rfl⟩⟩

theorem State.Keeps.modStation {s t : State} (h : s.Keeps t) (p : Place) (f : Station → Station) : s.Keeps (t.modStation p f) :=
  h.trans ⟨rfl, rfl, rfl, rfl, rfl, rfl, rfl, rfl, rfl, rfl, ⟨[], by simp, fun h => h⟩,
    rfl, fun _ => rfl, fun _ => ⟨rfl, rfl⟩⟩

theorem State.Keeps.setTrunk {s t : State} (h : s.Keeps t) (k : TrunkNo) (x : Trunk) : s.Keeps (t.setTrunk k x) :=
  h.trans ⟨rfl, rfl, rfl, rfl, rfl, rfl, rfl, rfl, rfl, rfl, ⟨[], by simp, fun h => h⟩,
    rfl, fun _ => rfl, fun _ => ⟨rfl, rfl⟩⟩

theorem State.Keeps.modCell {s t : State} (h : s.Keeps t) (c : CellNo) (f : Cell → Cell)
    (hf : (f (t.cell c)).dock.map Dock.stations = (t.cell c).dock.map Dock.stations) : s.Keeps (t.modCell c f) :=
  h.trans ⟨rfl, rfl, rfl, rfl, rfl, rfl, rfl, rfl, rfl, rfl, ⟨[], by simp, fun h => h⟩, rfl,
    fun d => by rw [State.cell_modCell]; split <;> simp_all, fun _ => ⟨rfl, rfl⟩⟩

theorem State.Keeps.modTester {s t : State} (h : s.Keeps t) (p : Place) (f : Tester → Tester)
    (hf : (f (t.tester p)).protectFloor = (t.tester p).protectFloor)
    (hw : (f (t.tester p)).floorWritten = (t.tester p).floorWritten) : s.Keeps (t.modTester p f) :=
  h.trans ⟨rfl, rfl, rfl, rfl, rfl, rfl, rfl, rfl, rfl, rfl, ⟨[], by simp, fun h => h⟩, rfl, fun _ => rfl,
    fun q => by rw [State.tester_modTester]; split <;> simp_all⟩

theorem State.Keeps.modLot {s t : State} (h : s.Keeps t) (n : LotNo) (f : Lot → Lot)
    (hf : ∀ l, (f l).identity = l.identity) : s.Keeps (t.modLot n f) :=
  h.trans ⟨rfl, rfl, rfl, rfl, rfl, rfl, rfl, rfl, rfl, rfl, ⟨[], by simp, fun h => h⟩,
    by simp only [State.modLot, List.map_map]; exact List.map_congr_left fun l _ => by simp only [Function.comp]; split <;> simp [hf],
    fun _ => rfl, fun _ => ⟨rfl, rfl⟩⟩

theorem State.Keeps.putProduct {s t : State} (h : s.Keeps t) (e : Product) : s.Keeps (t.putProduct e) :=
  h.trans ⟨rfl, rfl, rfl, rfl, rfl, rfl, rfl, rfl, rfl, rfl, ⟨[], by simp, fun h => h⟩,
    rfl, fun _ => rfl, fun _ => ⟨rfl, rfl⟩⟩

theorem State.Keeps.post {s t : State} (h : s.Keeps t) (k : EventKind) (subject : BitVec 32) (detail : List Byte) :
    s.Keeps (t.post k subject detail) :=
  h.trans ⟨by simp, by simp, by simp, by simp, by simp, by simp, by simp, by simp, by simp, by simp,
    t.post_extends k subject detail, by simp, fun _ => by simp, fun _ => by simp⟩

theorem State.Keeps.trigger {s t : State} (h : s.Keeps t) : s.Keeps t.trigger :=
  h.trans ⟨by simp, by simp, by simp, by simp, by simp, by simp, by simp, by simp, by simp, by simp,
    ⟨[], by simp, by simp⟩, by simp, fun _ => by simp, fun _ => by simp⟩

theorem State.Keeps.enterQueue {s t : State} (h : s.Keeps t) (n : LotNo) : s.Keeps (t.enterQueue n) :=
  h.trans ⟨by simp, by simp, by simp, by simp, by simp, by simp, by simp, by simp, by simp, by simp,
    ⟨[], by simp, by simp⟩, by simp, fun _ => by simp, fun _ => by simp⟩

theorem State.Keeps.leaveQueue {s t : State} (h : s.Keeps t) (n : LotNo) : s.Keeps (t.leaveQueue n) :=
  h.trans ⟨rfl, rfl, rfl, rfl, rfl, rfl, rfl, rfl, rfl, rfl, ⟨[], by simp, fun h => h⟩,
    rfl, fun _ => rfl, fun _ => ⟨rfl, rfl⟩⟩

theorem State.Keeps.takeStamp {s t : State} (h : s.Keeps t) (n : LotNo) : s.Keeps (t.takeStamp n) :=
  (h.modLot n (fun l => { l with stamp := t.nextStamp, enqueueTick := t.tick }) fun _ => rfl).trans
    ⟨rfl, rfl, rfl, rfl, rfl, rfl, rfl, rfl, rfl, rfl, ⟨[], by simp [State.takeStamp], fun h => h⟩, rfl, fun _ => rfl,
      fun _ => ⟨rfl, rfl⟩⟩

theorem State.Keeps.answer {s t : State} (h : s.Keeps t) (kind tag : Byte) (st : Status) (fields : List Byte) :
    s.Keeps (t.answer kind tag st fields) :=
  h.trans ⟨rfl, rfl, rfl, rfl, rfl, rfl, rfl, rfl, rfl, rfl, ⟨[], by simp, fun h => h⟩, rfl, fun _ => rfl, fun _ => ⟨rfl, rfl⟩⟩

theorem State.Keeps.offer {s t : State} (h : s.Keeps t) (p : Place) (cmd : Command) : s.Keeps (t.offer p cmd).1 := by
  rcases t.offer_cases p cmd with h' | h' | ⟨q, -, -, h'⟩
  · rw [h'.2]; exact h
  · rw [h'.2.2]; exact h
  · rw [h']; exact h.setStation p _

theorem State.Keeps.offerDrop {s t : State} (h : s.Keeps t) (p : Place) (cmd : Command) : s.Keeps (t.offerDrop p cmd) :=
  h.offer p cmd

theorem State.Keeps.stray {s t : State} (h : s.Keeps t) (p : Place) (r : Report) : s.Keeps (t.stray p r) := h.post _ _ _

theorem State.Keeps.strayOpt {s t : State} (h : s.Keeps t) (p : Place) (r : Option Report) : s.Keeps (t.strayOpt p r) := by
  cases r with
  | none => exact h
  | some r => exact h.stray p r

theorem Cell.loadRecovery_docks (x : Cell) (n : Nat) :
    (x.loadRecovery n).dock.map Dock.stations = x.dock.map Dock.stations := by
  unfold Cell.loadRecovery; cases x.dock <;> rfl

theorem Lot.modRecord_identity (l : Lot) (k : Nat) (f : Insertion → Insertion) : (l.modRecord k f).identity = l.identity := by
  unfold Lot.modRecord; split <;> rfl

theorem Lot.modCurrent_identity (l : Lot) (f : Insertion → Insertion) : (l.modCurrent f).identity = l.identity :=
  l.modRecord_identity _ f

theorem State.Keeps.modCurrent {s t : State} (h : s.Keeps t) (n : LotNo) (f : Lot → Insertion → Insertion) :
    s.Keeps (t.modLot n fun l => l.modCurrent (f l)) := h.modLot n _ fun l => l.modCurrent_identity _

/-! ### Assignments, holds and closes -/

theorem State.Keeps.withdrawReadiness {s t : State} (h : s.Keeps t) (c : CellNo) :
    s.Keeps (t.withdrawReadiness c) := by
  unfold State.withdrawReadiness
  try dsimp only
  repeat' first
    | with_reducible exact h | with_reducible apply State.Keeps.modTester | split | exact rfl | exact fun _ => rfl

theorem State.Keeps.enterQueueIfUnheld {s t : State} (h : s.Keeps t) (n : LotNo) :
    s.Keeps (t.enterQueueIfUnheld n) := by
  unfold State.enterQueueIfUnheld
  try dsimp only
  repeat' first
    | with_reducible exact h | with_reducible apply State.Keeps.enterQueue | split | exact rfl | exact fun _ => rfl

theorem State.Keeps.postFaulted {s t : State} (h : s.Keeps t) (c : CellNo) (cause : Nat) (n : LotNo) :
    s.Keeps (t.postFaulted c cause n) := h.post _ _ _

theorem Cell.cancelled_docks (x : Cell) (cause : CancelCause) (n : Nat) :
    (x.cancelled cause n).dock.map Dock.stations = x.dock.map Dock.stations := by
  unfold Cell.cancelled
  simp only
  split
  · exact Cell.loadRecovery_docks _ n
  · rfl

theorem State.Keeps.cancel {s t : State} (h : s.Keeps t) (c : CellNo) (cause : CancelCause) :
    s.Keeps (t.cancel c cause) := by
  unfold State.cancel
  try dsimp only
  repeat' first
    | with_reducible exact h | with_reducible apply State.Keeps.postFaulted | with_reducible apply State.Keeps.trigger
    | with_reducible apply State.Keeps.post | with_reducible apply State.Keeps.enterQueueIfUnheld
    | with_reducible apply State.Keeps.modLot | with_reducible apply State.Keeps.modCell
    | with_reducible apply State.Keeps.withdrawReadiness | exact Cell.cancelled_docks _ _ _ | split | exact rfl
    | exact fun _ => rfl

theorem State.Keeps.stopRequest {s t : State} (h : s.Keeps t) (c : CellNo) :
    s.Keeps (t.stopRequest c) := by
  unfold State.stopRequest
  try dsimp only
  repeat' first
    | with_reducible exact h | with_reducible apply State.Keeps.modCell | with_reducible apply State.Keeps.offerDrop | split
    | exact rfl | exact fun _ => rfl

theorem State.Keeps.setReleaseQueue {s t : State} (h : s.Keeps t) (q : List LotNo) : s.Keeps { t with releaseQueue := q } :=
  h.trans ⟨rfl, rfl, rfl, rfl, rfl, rfl, rfl, rfl, rfl, rfl, ⟨[], by simp, fun h => h⟩, rfl, fun _ => rfl, fun _ => ⟨rfl, rfl⟩⟩

theorem State.Keeps.recall {s t : State} (h : s.Keeps t) (n : LotNo) (cause : Cause) : s.Keeps (t.recall n cause) :=
  ((h.setReleaseQueue _).modLot n (fun l => { l with state := .complete, release := none }) fun _ => rfl).post _ _ _

theorem State.Keeps.holdAction {s t : State} (h : s.Keeps t) (l : Lot) (cause : Cause) :
    s.Keeps (t.holdAction l cause) := by
  unfold State.holdAction
  try dsimp only
  repeat' first
    | with_reducible exact h | with_reducible apply State.Keeps.leaveQueue | with_reducible apply State.Keeps.cancel
    | with_reducible apply State.Keeps.stopRequest | with_reducible apply State.Keeps.recall | split | exact rfl
    | exact fun _ => rfl

theorem State.Keeps.enterHold {s t : State} (h : s.Keeps t) (n : LotNo) (cause : Cause) (bins : List Bin) :
    s.Keeps (t.enterHold n cause bins) := by
  unfold State.enterHold
  try dsimp only
  repeat' first
    | with_reducible exact h | with_reducible apply State.Keeps.holdAction | with_reducible apply State.Keeps.post
    | with_reducible apply State.Keeps.modLot | split | exact rfl | exact fun _ => rfl

theorem State.Keeps.postFinding {s t : State} (h : s.Keeps t) (l : Lot) (r : Raised) (v : Verdict) :
    s.Keeps (t.postFinding l r v) := h.post _ _ _

theorem State.Keeps.finding {s t : State} (h : s.Keeps t) (n : LotNo) (r : Raised) :
    s.Keeps (t.finding n r) := by
  unfold State.finding
  try dsimp only
  repeat' first
    | with_reducible exact h | with_reducible apply State.Keeps.enterHold | with_reducible apply State.Keeps.postFinding
    | with_reducible apply State.Keeps.modCurrent | with_reducible apply State.Keeps.modLot | split | exact rfl
    | exact fun _ => rfl

theorem State.Keeps.raiseAll {s t : State} (h : s.Keeps t) (n : LotNo) (rs : List Raised) : s.Keeps (t.raiseAll n rs) := by
  unfold State.raiseAll
  induction rs generalizing t with
  | nil => exact h
  | cons r rs ih => exact ih (h.finding n r)

theorem State.Keeps.applyTally {s t : State} (h : s.Keeps t) (n : LotNo) (incs : List Nat) :
    s.Keeps (t.applyTally n incs) := by
  unfold State.applyTally
  try dsimp only
  repeat' first
    | with_reducible exact h | with_reducible apply State.Keeps.finding | with_reducible apply State.Keeps.raiseAll
    | with_reducible apply State.Keeps.modCurrent | split

theorem State.Keeps.takeTally {s t : State} (h : s.Keeps t) (n : LotNo) (q : Byte) (incs : List Nat) :
    s.Keeps (t.takeTally n q incs) := by
  unfold State.takeTally
  try dsimp only
  repeat' first
    | with_reducible exact h | with_reducible apply State.Keeps.applyTally | with_reducible apply State.Keeps.finding
    | with_reducible apply State.Keeps.modCurrent | split

theorem State.Keeps.takeSample {s t : State} (h : s.Keeps t) (n : LotNo) (z : Int) (running : Bool) :
    s.Keeps (t.takeSample n z running) := by
  unfold State.takeSample
  try dsimp only
  repeat' first
    | with_reducible exact h | with_reducible apply State.Keeps.finding | with_reducible apply State.Keeps.modCurrent | split

theorem State.Keeps.completeLot {s t : State} (h : s.Keeps t) (l : Lot) (good : Nat) : s.Keeps (t.completeLot l good) :=
  (h.modLot l.number (fun l => { l with state := .complete, cell := none, shipQuantity := some good }) fun _ => rfl).post _ _ _

theorem Lot.advance_identity (l : Lot) (good : Nat) : (l.advance good).identity = l.identity :=
  l.modRecord_identity _ _

theorem State.Keeps.progress {s t : State} (h : s.Keeps t) (n : LotNo) :
    s.Keeps (t.progress n) := by
  unfold State.progress
  try dsimp only
  repeat' first
    | with_reducible exact h | with_reducible apply State.Keeps.completeLot | with_reducible apply State.Keeps.enterQueue
    | with_reducible apply State.Keeps.takeStamp | with_reducible apply State.Keeps.modLot
    | exact fun l => l.advance_identity _ | split

theorem Cell.segmentEnded_docks (x : Cell) (after : CellState) (load : Bool) (n : Nat) :
    (if load then (x.segmentEnded after).loadRecovery n else x.segmentEnded after).dock.map Dock.stations =
      x.dock.map Dock.stations := by
  split
  · exact Cell.loadRecovery_docks _ _
  · rfl

theorem State.Keeps.endSegment {s t : State} (h : s.Keeps t) (c : CellNo) (n : LotNo) (after : CellState) (load : Bool) :
    s.Keeps (t.endSegment c n after load) := by
  unfold State.endSegment
  try dsimp only
  repeat' first
    | with_reducible exact h | with_reducible apply State.Keeps.trigger | with_reducible apply State.Keeps.modCell
    | with_reducible apply State.Keeps.modLot | exact Cell.segmentEnded_docks _ _ _ _
    | exact fun l => l.modCurrent_identity _ | split

theorem State.Keeps.postClosed {s t : State} (h : s.Keeps t) (l : Lot) (r : Insertion) (cause : CloseCause) :
    s.Keeps (t.postClosed l r cause) := h.post _ _ _

theorem State.Keeps.writeBaseline {s t : State} (h : s.Keeps t) (p : ProductNo) (step revision : Nat) (b : Baseline) :
    s.Keeps (t.writeBaseline p step revision b) := by
  unfold State.writeBaseline
  try dsimp only
  repeat' first
    | with_reducible exact h | with_reducible apply State.Keeps.putProduct | split

theorem State.Keeps.baselineUpdate {s t : State} (h : s.Keeps t) (l : Lot) (r : Insertion) :
    s.Keeps (t.baselineUpdate l r) := by
  unfold State.baselineUpdate
  try dsimp only
  repeat' first
    | with_reducible exact h | with_reducible apply State.Keeps.writeBaseline | split

theorem State.Keeps.settleComplete {s t : State} (h : s.Keeps t) (n : LotNo) :
    s.Keeps (t.settleComplete n) := by
  unfold State.settleComplete
  try dsimp only
  repeat' first
    | with_reducible exact h | with_reducible apply State.Keeps.progress | with_reducible apply State.Keeps.baselineUpdate
    | with_reducible apply State.Keeps.postClosed | with_reducible apply State.Keeps.modCurrent | split

theorem State.Keeps.closeComplete {s t : State} (h : s.Keeps t) (c : CellNo) (gap : List Raised) :
    s.Keeps (t.closeComplete c gap) := by
  unfold State.closeComplete
  try dsimp only
  repeat' first
    | with_reducible exact h | with_reducible apply State.Keeps.settleComplete | with_reducible apply State.Keeps.raiseAll
    | with_reducible apply State.Keeps.endSegment | split

theorem State.Keeps.settlePartial {s t : State} (h : s.Keeps t) (n : LotNo) (cause : CloseCause) :
    s.Keeps (t.settlePartial n cause) := by
  unfold State.settlePartial
  try dsimp only
  repeat' first
    | with_reducible exact h | with_reducible apply State.Keeps.enterQueueIfUnheld
    | with_reducible apply State.Keeps.postClosed | with_reducible apply State.Keeps.modCurrent | split

theorem State.Keeps.closePartial {s t : State} (h : s.Keeps t) (c : CellNo) (cause : CloseCause) (after : CellState) (load fault : Bool) (gap : List Raised) :
    s.Keeps (t.closePartial c cause after load fault gap) := by
  unfold State.closePartial
  try dsimp only
  repeat' first
    | with_reducible exact h | with_reducible apply State.Keeps.settlePartial | with_reducible apply State.Keeps.raiseAll
    | with_reducible apply State.Keeps.endSegment | split

theorem State.Keeps.takeEnd {s t : State} (h : s.Keeps t) (c : CellNo) (q : Byte) (stopped : Bool) :
    s.Keeps (t.takeEnd c q stopped) := by
  unfold State.takeEnd
  try dsimp only
  repeat' first
    | with_reducible exact h | with_reducible apply State.Keeps.closePartial | with_reducible apply State.Keeps.closeComplete
    | split

/-! ### Starts and the Slot Manager -/

theorem State.Keeps.takeNumber {s t : State} (h : s.Keeps t) (k : Nat) : s.Keeps { t with nextInsertion := k } :=
  h.trans ⟨rfl, rfl, rfl, rfl, rfl, rfl, rfl, rfl, rfl, rfl, ⟨[], by simp, fun h => h⟩, rfl, fun _ => rfl, fun _ => ⟨rfl, rfl⟩⟩

theorem State.Keeps.takeRef {s t : State} (h : s.Keeps t) (k : Nat) : s.Keeps { t with nextRef := k } :=
  h.trans ⟨rfl, rfl, rfl, rfl, rfl, rfl, rfl, rfl, rfl, rfl, ⟨[], by simp, fun h => h⟩, rfl, fun _ => rfl, fun _ => ⟨rfl, rfl⟩⟩

theorem State.Keeps.offerStart {s t : State} (h : s.Keeps t) (c : CellNo) : s.Keeps (t.offerStart c) := by
  unfold State.offerStart
  split
  · split
    · exact h
    · dsimp only
      split
      · exact ((h.takeNumber _).modCell _ _ (by rfl)).offer _ _
      · with_reducible apply State.Keeps.cancel
        exact ((h.takeNumber _).modCell _ _ (by rfl)).offer _ _
  · exact h

theorem State.Keeps.checkStart {s t : State} (h : s.Keeps t) (c : CellNo) :
    s.Keeps (t.checkStart c) := by
  unfold State.checkStart
  try dsimp only
  repeat' first
    | with_reducible exact h | with_reducible apply State.Keeps.offerStart | split

theorem State.Keeps.programReady {s t : State} (h : s.Keeps t) (c : CellNo) :
    s.Keeps (t.programReady c) := by
  unfold State.programReady
  try dsimp only
  repeat' first
    | with_reducible exact h | with_reducible apply State.Keeps.checkStart | with_reducible apply State.Keeps.modCell | split
    | exact rfl | exact fun _ => rfl

theorem State.Keeps.programFailed {s t : State} (h : s.Keeps t) (c : CellNo) :
    s.Keeps (t.programFailed c) := by
  unfold State.programFailed
  try dsimp only
  repeat' first
    | with_reducible exact h | with_reducible apply State.Keeps.cancel | split

theorem State.Keeps.answerFailed {s t : State} (h : s.Keeps t) (p : Place) (o : OpOutcome) :
    s.Keeps (t.answerFailed p o) := by
  unfold State.answerFailed
  try dsimp only
  repeat' first
    | with_reducible exact h | with_reducible apply State.Keeps.programFailed | with_reducible apply State.Keeps.modTester
    | split | exact rfl | exact fun _ => rfl

theorem State.Keeps.answerReady {s t : State} (h : s.Keeps t) (p : Place) :
    s.Keeps (t.answerReady p) := by
  unfold State.answerReady
  try dsimp only
  repeat' first
    | with_reducible exact h | with_reducible apply State.Keeps.programReady | with_reducible apply State.Keeps.modTester
    | split | exact rfl | exact fun _ => rfl

theorem State.Keeps.closeLoad {s t : State} (h : s.Keeps t) (p : Place) (o : Operation) (oc : OpOutcome) (carried : Option ProgramId) :
    s.Keeps (t.closeLoad p o oc carried) := by
  unfold State.closeLoad
  try dsimp only
  repeat' first
    | with_reducible exact h | with_reducible apply State.Keeps.trigger | with_reducible apply State.Keeps.post
    | with_reducible apply State.Keeps.modTester | split | exact rfl | exact fun _ => rfl

theorem State.Keeps.postErase {s t : State} (h : s.Keeps t) (p : Place) (o : Operation) (oc : OpOutcome) :
    s.Keeps (t.postErase p o oc) := by
  unfold State.postErase
  try dsimp only
  repeat' first
    | with_reducible exact h | with_reducible apply State.Keeps.post | split

theorem State.Keeps.closeErase {s t : State} (h : s.Keeps t) (p : Place) (o : Operation) (oc : OpOutcome) :
    s.Keeps (t.closeErase p o oc) := by
  unfold State.closeErase
  try dsimp only
  repeat' first
    | with_reducible exact h | with_reducible apply State.Keeps.trigger | with_reducible apply State.Keeps.postErase
    | with_reducible apply State.Keeps.modTester | split | exact rfl | exact fun _ => rfl

theorem State.Keeps.closeVerify {s t : State} (h : s.Keeps t) (p : Place) (o : Operation) (oc : OpOutcome) :
    s.Keeps (t.closeVerify p o oc) := by
  unfold State.closeVerify
  try dsimp only
  repeat' first
    | with_reducible exact h | with_reducible apply State.Keeps.trigger | with_reducible apply State.Keeps.post
    | with_reducible apply State.Keeps.modTester | split | exact rfl | exact fun _ => rfl

theorem State.Keeps.closePurge {s t : State} (h : s.Keeps t) (p : Place) (erased failing outcome : Nat) :
    s.Keeps (t.closePurge p erased failing outcome) := by
  unfold State.closePurge
  try dsimp only
  repeat' first
    | with_reducible exact h | with_reducible apply State.Keeps.trigger | with_reducible apply State.Keeps.post
    | with_reducible apply State.Keeps.modTester | split | exact rfl | exact fun _ => rfl

theorem State.Keeps.commandFailed {s t : State} (h : s.Keeps t) (p : Place) (op : TesterOp) (oc : OpOutcome)
    (carried : Option ProgramId) : s.Keeps (t.commandFailed p op oc carried) := by
  unfold State.commandFailed
  extract_lets mine u
  have key : s.Keeps u := by
    subst u
    repeat' first
      | with_reducible exact h | with_reducible apply State.Keeps.closeLoad | with_reducible apply State.Keeps.closeVerify
      | with_reducible apply State.Keeps.closePurge | with_reducible apply State.Keeps.closeErase
      | with_reducible apply State.Keeps.modTester | split | exact rfl
  split
  · exact key.answerFailed _ _
  · exact key

theorem State.Keeps.issue {s t : State} (h : s.Keeps t) (p : Place) (op : TesterOp) (slot : SlotNo) (id revision : Nat) :
    s.Keeps (t.issue p op slot id revision) := by
  unfold State.issue
  try dsimp only
  repeat' first
    | with_reducible exact h | with_reducible apply State.Keeps.commandFailed | with_reducible apply State.Keeps.offer
    | with_reducible apply State.Keeps.modTester | split | exact rfl | exact fun _ => rfl

theorem State.Keeps.startLoad {s t : State} (h : s.Keeps t) (p : Place) (slot : SlotNo) (id : ProgramId) (origin : Origin) (reported : Bool) (members : Nat) :
    s.Keeps (t.startLoad p slot id origin reported members) := by
  unfold State.startLoad
  try dsimp only
  repeat' first
    | with_reducible exact h | with_reducible apply State.Keeps.issue | with_reducible apply State.Keeps.modTester | split
    | exact rfl | exact fun _ => rfl

theorem State.Keeps.startErase {s t : State} (h : s.Keeps t) (p : Place) (slot : SlotNo) (origin : Origin) :
    s.Keeps (t.startErase p slot origin) := by
  unfold State.startErase
  try dsimp only
  repeat' first
    | with_reducible exact h | with_reducible apply State.Keeps.issue | with_reducible apply State.Keeps.modTester | split
    | exact rfl | exact fun _ => rfl

theorem State.Keeps.startVerify {s t : State} (h : s.Keeps t) (p : Place) (slot : SlotNo) (origin : Origin) :
    s.Keeps (t.startVerify p slot origin) := by
  unfold State.startVerify
  try dsimp only
  repeat' first
    | with_reducible exact h | with_reducible apply State.Keeps.issue | with_reducible apply State.Keeps.modTester | split
    | exact rfl | exact fun _ => rfl

theorem State.Keeps.startStage {s t : State} (h : s.Keeps t) (p : Place) (op : TesterOp) (slot : SlotNo) (id : ProgramId) :
    s.Keeps (t.startStage p op slot id) := by
  unfold State.startStage
  try dsimp only
  repeat' first
    | with_reducible exact h | with_reducible apply State.Keeps.startLoad | with_reducible apply State.Keeps.startErase
    | with_reducible apply State.Keeps.startVerify | with_reducible apply State.Keeps.issue
    | with_reducible apply State.Keeps.modTester | split | exact rfl | exact fun _ => rfl

theorem State.Keeps.purgeStep {s t : State} (h : s.Keeps t) (p : Place) :
    s.Keeps (t.purgeStep p) := by
  unfold State.purgeStep
  try dsimp only
  repeat' first
    | with_reducible exact h | with_reducible apply State.Keeps.closePurge | with_reducible apply State.Keeps.issue
    | with_reducible apply State.Keeps.modTester | split | exact rfl | exact fun _ => rfl

theorem State.Keeps.selectWritten {s t : State} (h : s.Keeps t) (p : Place) (slot : SlotNo) :
    s.Keeps (t.selectWritten p slot) := by
  unfold State.selectWritten
  try dsimp only
  repeat' first
    | with_reducible exact h | with_reducible apply State.Keeps.modTester | split | exact rfl | exact fun _ => rfl

theorem State.Keeps.commandDone {s t : State} (h : s.Keeps t) (p : Place) (op : TesterOp) (slot : SlotNo) :
    s.Keeps (t.commandDone p op slot) := by
  unfold State.commandDone
  try dsimp only
  repeat' first
    | with_reducible exact h | with_reducible apply State.Keeps.answerReady | with_reducible apply State.Keeps.selectWritten
    | with_reducible apply State.Keeps.startStage | with_reducible apply State.Keeps.closeLoad
    | with_reducible apply State.Keeps.closeVerify | with_reducible apply State.Keeps.purgeStep
    | with_reducible apply State.Keeps.postErase | with_reducible apply State.Keeps.closeErase
    | with_reducible apply State.Keeps.modTester | split | exact rfl | exact fun _ => rfl

theorem State.Keeps.awaitedEnd {s t : State} (h : s.Keeps t) (p : Place) (op : TesterOp) (slot : SlotNo) (e : End) (r : Option Report) :
    s.Keeps (t.awaitedEnd p op slot e r) := by
  unfold State.awaitedEnd
  try dsimp only
  repeat' first
    | with_reducible exact h | with_reducible apply State.Keeps.commandDone | with_reducible apply State.Keeps.commandFailed
    | with_reducible apply State.Keeps.strayOpt | split

theorem State.Keeps.unawaitedEnd {s t : State} (h : s.Keeps t) (p : Place) (op : TesterOp) (slot : SlotNo) (e : End) (r : Option Report) :
    s.Keeps (t.unawaitedEnd p op slot e r) := by
  unfold State.unawaitedEnd
  try dsimp only
  repeat' first
    | with_reducible exact h | with_reducible apply State.Keeps.strayOpt | with_reducible apply State.Keeps.selectWritten
    | split

theorem State.Keeps.offerNext {s t : State} (h : s.Keeps t) (p : Place) :
    s.Keeps (t.offerNext p) := by
  unfold State.offerNext
  try dsimp only
  repeat' first
    | with_reducible exact h | with_reducible apply State.Keeps.programFailed | with_reducible apply State.Keeps.startStage
    | with_reducible apply State.Keeps.modTester | split | exact rfl | exact fun _ => rfl

theorem State.Keeps.testerEnd {s t : State} (h : s.Keeps t) (p : Place) (op : TesterOp) (slot : SlotNo) (e : End) (r : Option Report) :
    s.Keeps (t.testerEnd p op slot e r) := by
  unfold State.testerEnd
  try dsimp only
  repeat' first
    | with_reducible exact h | with_reducible apply State.Keeps.offerNext | with_reducible apply State.Keeps.awaitedEnd
    | with_reducible apply State.Keeps.unawaitedEnd | with_reducible apply State.Keeps.modTester | split | exact rfl
    | exact fun _ => rfl

theorem State.Keeps.requestReadiness {s t : State} (h : s.Keeps t) (c : CellNo) (p : Place) (id : ProgramId) :
    s.Keeps (t.requestReadiness c p id) := by
  unfold State.requestReadiness
  try dsimp only
  repeat' first
    | with_reducible exact h | with_reducible apply State.Keeps.programFailed | with_reducible apply State.Keeps.startStage
    | with_reducible apply State.Keeps.modTester | split | exact rfl | exact fun _ => rfl

theorem State.Keeps.breakOff {s t : State} (h : s.Keeps t) (p : Place) (oc : OpOutcome) :
    s.Keeps (t.breakOff p oc) := by
  unfold State.breakOff
  try dsimp only
  repeat' first
    | with_reducible exact h | with_reducible apply State.Keeps.answerFailed | with_reducible apply State.Keeps.commandFailed
    | with_reducible apply State.Keeps.modTester | split | exact rfl | exact fun _ => rfl

theorem State.Keeps.testerRestarted {s t : State} (h : s.Keeps t) (p : Place) :
    s.Keeps (t.testerRestarted p) := by
  unfold State.testerRestarted
  try dsimp only
  repeat' first
    | with_reducible exact h | with_reducible apply State.Keeps.finding | with_reducible apply State.Keeps.stopRequest
    | with_reducible apply State.Keeps.modTester | with_reducible apply State.Keeps.breakOff | split | exact rfl
    | exact fun _ => rfl

/-! ### The Cell Controller -/

theorem State.Keeps.offerSetpoint {s t : State} (h : s.Keeps t) (c : CellNo) (p : Place) (z : Int) :
    s.Keeps (t.offerSetpoint c p z).1 := by
  unfold State.offerSetpoint
  dsimp only
  split
  · exact ((h.takeRef _).modCell _ _ (by rfl)).offer _ _
  · with_reducible apply State.Keeps.cancel
    with_reducible apply State.Keeps.modCell
    · exact ((h.takeRef _).modCell _ _ (by rfl)).offer _ _
    · exact rfl

theorem State.Keeps.enterPreparing {s t : State} (h : s.Keeps t) (c : CellNo) :
    s.Keeps (t.enterPreparing c) := by
  unfold State.enterPreparing
  try dsimp only
  repeat' first
    | with_reducible exact h | with_reducible apply State.Keeps.requestReadiness
    | with_reducible apply State.Keeps.offerSetpoint | with_reducible apply State.Keeps.modCell | split | exact rfl
    | exact fun _ => rfl

theorem State.Keeps.enterSetup {s t : State} (h : s.Keeps t) (c : CellNo) :
    s.Keeps (t.enterSetup c) := by
  unfold State.enterSetup
  try dsimp only
  repeat' first
    | with_reducible exact h | with_reducible apply State.Keeps.post | with_reducible apply State.Keeps.modCell | split
    | exact rfl | exact fun _ => rfl

theorem State.Keeps.setpointAgain {s t : State} (h : s.Keeps t) (c : CellNo) (p : Place) (z : Int) :
    s.Keeps (t.setpointAgain c p z) := by
  unfold State.setpointAgain
  try dsimp only
  repeat' first
    | with_reducible exact h | with_reducible apply State.Keeps.offerSetpoint | with_reducible apply State.Keeps.modCell
    | split | exact rfl | exact fun _ => rfl

theorem State.Keeps.setpointEnd {s t : State} (h : s.Keeps t) (p : Place) (ref : Nat) (z : Int) (e : End) :
    s.Keeps (t.setpointEnd p ref z e) := by
  unfold State.setpointEnd
  try dsimp only
  repeat' first
    | with_reducible exact h | with_reducible apply State.Keeps.checkStart | with_reducible apply State.Keeps.setpointAgain
    | with_reducible apply State.Keeps.cancel | with_reducible apply State.Keeps.modCell | split | exact rfl
    | exact fun _ => rfl

theorem State.Keeps.segmentStart {s t : State} (h : s.Keeps t) (c : CellNo) (number quantity : Nat) :
    s.Keeps (t.segmentStart c number quantity) := by
  unfold State.segmentStart
  try dsimp only
  repeat' first
    | with_reducible exact h | with_reducible apply State.Keeps.post | with_reducible apply State.Keeps.modLot
    | with_reducible apply State.Keeps.modCell | exact fun l => l.modCurrent_identity _ | split | exact rfl
    | exact fun _ => rfl

theorem State.Keeps.startEnd {s t : State} (h : s.Keeps t) (p : Place) (number quantity : Nat) (e : End) :
    s.Keeps (t.startEnd p number quantity e) := by
  unfold State.startEnd
  try dsimp only
  repeat' first
    | with_reducible exact h | with_reducible apply State.Keeps.segmentStart | with_reducible apply State.Keeps.offerDrop
    | with_reducible apply State.Keeps.cancel | split

theorem State.Keeps.fitKit {s t : State} (h : s.Keeps t) (c : CellNo) (family : Nat) :
    s.Keeps (t.modCell c fun x => { x with dock := x.dock.map fun d => { d with kit := family } }) :=
  h.modCell c _ (by cases (t.cell c).dock <;> rfl)

theorem State.Keeps.kitReport {s t : State} (h : s.Keeps t) (c : CellNo) (family : Nat) :
    s.Keeps (t.kitReport c family) := by
  unfold State.kitReport
  try dsimp only
  repeat' first
    | with_reducible exact h | with_reducible apply State.Keeps.enterPreparing | with_reducible apply State.Keeps.cancel
    | with_reducible apply State.Keeps.fitKit | split

theorem State.Keeps.tempReport {s t : State} (h : s.Keeps t) (c : CellNo) (z : Int) :
    s.Keeps (t.tempReport c z) := by
  unfold State.tempReport
  try dsimp only
  repeat' first
    | with_reducible exact h | with_reducible apply State.Keeps.takeSample | with_reducible apply State.Keeps.checkStart
    | with_reducible apply State.Keeps.modCell | split | exact rfl | exact fun _ => rfl

theorem State.Keeps.handlerReport {s t : State} (h : s.Keeps t) (p : Place) (r : Report) :
    s.Keeps (t.handlerReport p r) := by
  unfold State.handlerReport
  try dsimp only
  repeat' first
    | with_reducible exact h | with_reducible apply State.Keeps.stray | with_reducible apply State.Keeps.kitReport
    | with_reducible apply State.Keeps.tempReport | with_reducible apply State.Keeps.takeTally
    | with_reducible apply State.Keeps.takeEnd | split

theorem State.Keeps.handlerAlarm {s t : State} (h : s.Keeps t) (p : Place) : s.Keeps (t.handlerAlarm p) := by
  unfold State.handlerAlarm
  split
  · exact h
  · with_reducible apply State.Keeps.modCell
    · exact h
    · dsimp only
      split
      · exact Cell.loadRecovery_docks _ _
      · exact Cell.loadRecovery_docks _ _

theorem State.Keeps.cellLostAs {s t : State} (h : s.Keeps t) (c : CellNo) (handler : Bool) :
    s.Keeps (t.cellLostAs c handler) := by
  unfold State.cellLostAs
  try dsimp only
  repeat' first
    | with_reducible exact h | with_reducible apply State.Keeps.postFaulted | with_reducible apply State.Keeps.cancel
    | with_reducible apply State.Keeps.offerDrop | with_reducible apply State.Keeps.closePartial
    | with_reducible apply State.Keeps.modCell | split | exact rfl | exact fun _ => rfl

theorem State.Keeps.cellLost {s t : State} (h : s.Keeps t) (p : Place) :
    s.Keeps (t.cellLost p) := by
  unfold State.cellLost
  try dsimp only
  repeat' first
    | with_reducible exact h | with_reducible apply State.Keeps.cellLostAs | split

theorem State.Keeps.recoverCell {s t : State} (h : s.Keeps t) (c : CellNo) :
    s.Keeps (t.recoverCell c) := by
  unfold State.recoverCell
  try dsimp only
  repeat' first
    | with_reducible exact h | with_reducible apply State.Keeps.trigger | with_reducible apply State.Keeps.post
    | with_reducible apply State.Keeps.modCell | exact Cell.loadRecovery_docks _ _ | split

theorem State.Keeps.cellOnline {s t : State} (h : s.Keeps t) (p : Place) :
    s.Keeps (t.cellOnline p) := by
  unfold State.cellOnline
  try dsimp only
  repeat' first
    | with_reducible exact h | with_reducible apply State.Keeps.trigger | with_reducible apply State.Keeps.recoverCell
    | split

theorem State.Keeps.handlerRestarted {s t : State} (h : s.Keeps t) (p : Place) :
    s.Keeps (t.handlerRestarted p) := by
  unfold State.handlerRestarted
  try dsimp only
  repeat' first
    | with_reducible exact h | with_reducible apply State.Keeps.cancel | with_reducible apply State.Keeps.closePartial
    | with_reducible apply State.Keeps.modCell | split | exact rfl | exact fun _ => rfl

theorem State.Keeps.testerRestartCell {s t : State} (h : s.Keeps t) (p : Place) :
    s.Keeps (t.testerRestartCell p) := by
  unfold State.testerRestartCell
  try dsimp only
  repeat' first
    | with_reducible exact h | with_reducible apply State.Keeps.cancel | split

/-! ### The Station Table -/

theorem State.Keeps.routeReport {s t : State} (h : s.Keeps t) (p : Place) (r : Report) :
    s.Keeps (t.routeReport p r) := by
  unfold State.routeReport
  try dsimp only
  repeat' first
    | with_reducible exact h | with_reducible apply State.Keeps.modStation | with_reducible apply State.Keeps.stray
    | with_reducible apply State.Keeps.handlerReport | split

theorem State.Keeps.routeOpt {s t : State} (h : s.Keeps t) (p : Place) (r : Option Report) : s.Keeps (t.routeOpt p r) := by
  cases r with
  | none => exact h
  | some r => exact h.routeReport p r

theorem State.Keeps.handlerReportOpt {s t : State} (h : s.Keeps t) (p : Place) (r : Option Report) :
    s.Keeps (t.handlerReportOpt p r) := by
  cases r with
  | none => exact h
  | some r => exact h.handlerReport p r

theorem State.Keeps.passAnswered {s t : State} (h : s.Keeps t) (p : Place) (e : End) (f : AnswerFlags) (r : Option Report) :
    s.Keeps (t.passAnswered p e f r) := by
  unfold State.passAnswered
  try dsimp only
  repeat' first
    | with_reducible exact h | with_reducible apply State.Keeps.answer | split

theorem State.Keeps.passEnd {s t : State} (h : s.Keeps t) (p : Place) (e : End) (f : AnswerFlags) (r : Option Report) :
    s.Keeps (t.passEnd p e f r) := by
  unfold State.passEnd
  try dsimp only
  repeat' first
    | with_reducible exact h | with_reducible apply State.Keeps.routeOpt | with_reducible apply State.Keeps.passAnswered
    | split

theorem State.Keeps.handEnd {s t : State} (h : s.Keeps t) (p : Place) (cmd : Command) (e : End) (f : AnswerFlags) (r : Option Report) :
    s.Keeps (t.handEnd p cmd e f r) := by
  unfold State.handEnd
  try dsimp only
  repeat' first
    | with_reducible exact h | with_reducible apply State.Keeps.handlerReportOpt
    | with_reducible apply State.Keeps.setpointEnd | with_reducible apply State.Keeps.startEnd
    | with_reducible apply State.Keeps.testerEnd | with_reducible apply State.Keeps.passEnd | split

theorem State.Keeps.handAll {s t : State} (h : s.Keeps t) (p : Place) (cmds : List Command) (e : End) :
    s.Keeps (t.handAll p cmds e) := by
  unfold State.handAll
  induction cmds generalizing t with
  | nil => exact h
  | cons c cs ih => exact ih (h.handEnd _ _ _ _ _)

theorem State.Keeps.tellLost {s t : State} (h : s.Keeps t) (p : Place) :
    s.Keeps (t.tellLost p) := by
  unfold State.tellLost
  try dsimp only
  repeat' first
    | with_reducible exact h | with_reducible apply State.Keeps.cellLost | with_reducible apply State.Keeps.breakOff | split

theorem State.Keeps.goLost {s t : State} (h : s.Keeps t) (p : Place) :
    s.Keeps (t.goLost p) := by
  unfold State.goLost
  try dsimp only
  repeat' first
    | with_reducible exact h | with_reducible apply State.Keeps.tellLost | with_reducible apply State.Keeps.handAll
    | with_reducible apply State.Keeps.post | with_reducible apply State.Keeps.modStation | split

theorem State.Keeps.comeOnline {s t : State} (h : s.Keeps t) (p : Place) (mark : Nat) :
    s.Keeps (t.comeOnline p mark) := by
  unfold State.comeOnline
  try dsimp only
  repeat' first
    | with_reducible exact h | with_reducible apply State.Keeps.cellOnline | with_reducible apply State.Keeps.post | split

theorem State.Keeps.returnOnline {s t : State} (h : s.Keeps t) (p : Place) :
    s.Keeps (t.returnOnline p) := by
  unfold State.returnOnline
  try dsimp only
  repeat' first
    | with_reducible exact h | with_reducible apply State.Keeps.comeOnline | with_reducible apply State.Keeps.modStation
    | split

theorem State.Keeps.tellRestart {s t : State} (h : s.Keeps t) (p : Place) :
    s.Keeps (t.tellRestart p) := by
  unfold State.tellRestart
  try dsimp only
  repeat' first
    | with_reducible exact h | with_reducible apply State.Keeps.testerRestartCell
    | with_reducible apply State.Keeps.testerRestarted | with_reducible apply State.Keeps.handlerRestarted | split

theorem State.Keeps.stationRestart {s t : State} (h : s.Keeps t) (p : Place) :
    s.Keeps (t.stationRestart p) := by
  unfold State.stationRestart
  try dsimp only
  repeat' first
    | with_reducible exact h | with_reducible apply State.Keeps.tellRestart | with_reducible apply State.Keeps.handAll
    | with_reducible apply State.Keeps.modStation | with_reducible apply State.Keeps.post | split

theorem State.Keeps.freshStep {s t : State} (h : s.Keeps t) (p : Place) (fresh : Bool) :
    s.Keeps (t.freshStep p fresh) := by
  unfold State.freshStep
  try dsimp only
  repeat' first
    | with_reducible exact h | with_reducible apply State.Keeps.stationRestart | with_reducible apply State.Keeps.modStation
    | split

theorem State.Keeps.endStep {s t : State} (h : s.Keeps t) (p : Place) (f : AnswerFlags) (r : Option Report) :
    s.Keeps (t.endStep p f r) := by
  unfold State.endStep
  try dsimp only
  repeat' first
    | with_reducible exact h | with_reducible apply State.Keeps.handEnd | with_reducible apply State.Keeps.strayOpt
    | with_reducible apply State.Keeps.routeOpt | with_reducible apply State.Keeps.modStation | split

theorem State.Keeps.alarmStep {s t : State} (h : s.Keeps t) (p : Place) (alarm : Bool) :
    s.Keeps (t.alarmStep p alarm) := by
  unfold State.alarmStep
  try dsimp only
  repeat' first
    | with_reducible exact h | with_reducible apply State.Keeps.modStation | with_reducible apply State.Keeps.handlerAlarm
    | split

theorem State.Keeps.joinStep {s t : State} (h : s.Keeps t) (p : Place) (fresh : Bool) (r : Option Report) :
    s.Keeps (t.joinStep p fresh r) := by
  unfold State.joinStep
  try dsimp only
  repeat' first
    | with_reducible exact h | with_reducible apply State.Keeps.comeOnline | with_reducible apply State.Keeps.post
    | with_reducible apply State.Keeps.setStation | with_reducible apply State.Keeps.modStation | split

theorem State.Keeps.takeAnswer {s t : State} (h : s.Keeps t) (p : Place) (f : AnswerFlags) (r : Option Report) :
    s.Keeps (t.takeAnswer p f r) := by
  unfold State.takeAnswer
  try dsimp only
  repeat' first
    | with_reducible exact h | with_reducible apply State.Keeps.alarmStep | with_reducible apply State.Keeps.joinStep
    | with_reducible apply State.Keeps.endStep | with_reducible apply State.Keeps.freshStep
    | with_reducible apply State.Keeps.returnOnline | with_reducible apply State.Keeps.modStation | split

theorem State.Keeps.takeMiss {s t : State} (h : s.Keeps t) (p : Place) :
    s.Keeps (t.takeMiss p) := by
  unfold State.takeMiss
  try dsimp only
  repeat' first
    | with_reducible exact h | with_reducible apply State.Keeps.goLost | with_reducible apply State.Keeps.modStation | split

theorem State.Keeps.settleTrunk {s t : State} (h : s.Keeps t) (k : TrunkNo) :
    s.Keeps (t.settleTrunk k) := by
  unfold State.settleTrunk
  try dsimp only
  repeat' first
    | with_reducible exact h | with_reducible apply State.Keeps.setTrunk | split

theorem State.Keeps.sendPoll {s t : State} (h : s.Keeps t) (k : TrunkNo) (a : AddrIx) :
    s.Keeps (t.sendPoll k a) := by
  unfold State.sendPoll
  try dsimp only
  repeat' first
    | with_reducible exact h | with_reducible apply State.Keeps.setTrunk | with_reducible apply State.Keeps.setStation
    | split

theorem State.Keeps.endPoll {s t : State} (h : s.Keeps t) (k : TrunkNo) :
    s.Keeps (t.endPoll k) := by
  unfold State.endPoll
  try dsimp only
  repeat' first
    | with_reducible exact h | with_reducible apply State.Keeps.setTrunk | split

theorem State.Keeps.expireCommand {s t : State} (h : s.Keeps t) (p : Place) :
    s.Keeps (t.expireCommand p) := by
  unfold State.expireCommand
  try dsimp only
  repeat' first
    | with_reducible exact h | with_reducible apply State.Keeps.handEnd | with_reducible apply State.Keeps.modStation | split

theorem State.Keeps.abandonPoll {s t : State} (h : s.Keeps t) (p : Place) :
    s.Keeps (t.abandonPoll p) := by
  unfold State.abandonPoll
  try dsimp only
  repeat' first
    | with_reducible exact h | with_reducible apply State.Keeps.setTrunk | split

theorem State.Keeps.tellRetired {s t : State} (h : s.Keeps t) (p : Place) :
    s.Keeps (t.tellRetired p) := by
  unfold State.tellRetired
  try dsimp only
  repeat' first
    | with_reducible exact h | with_reducible apply State.Keeps.modTester | split | exact rfl | exact fun _ => rfl

theorem State.Keeps.retire {s t : State} (h : s.Keeps t) (p : Place) :
    s.Keeps (t.retire p) := by
  unfold State.retire
  try dsimp only
  repeat' first
    | with_reducible exact h | with_reducible apply State.Keeps.settleTrunk | with_reducible apply State.Keeps.abandonPoll
    | with_reducible apply State.Keeps.setStation | with_reducible apply State.Keeps.tellRetired
    | with_reducible apply State.Keeps.handAll | with_reducible apply State.Keeps.modStation | split

/-! ### Cell timers and evaluations -/

theorem State.Keeps.expireSetup {s t : State} (h : s.Keeps t) (c : CellNo) :
    s.Keeps (t.expireSetup c) := by
  unfold State.expireSetup
  try dsimp only
  repeat' first
    | with_reducible exact h | with_reducible apply State.Keeps.cancel | with_reducible apply State.Keeps.post | split

theorem State.Keeps.expireStop {s t : State} (h : s.Keeps t) (c : CellNo) :
    s.Keeps (t.expireStop c) := by
  unfold State.expireStop
  try dsimp only
  repeat' first
    | with_reducible exact h | with_reducible apply State.Keeps.closePartial | with_reducible apply State.Keeps.post | split

theorem State.Keeps.expireLateEnd {s t : State} (h : s.Keeps t) (p : Place) :
    s.Keeps (t.expireLateEnd p) := h.modStation _ _

theorem State.Keeps.expireSoak {s t : State} (h : s.Keeps t) (c : CellNo) :
    s.Keeps (t.expireSoak c) := by
  unfold State.expireSoak
  try dsimp only
  repeat' first
    | with_reducible exact h | with_reducible apply State.Keeps.checkStart | with_reducible apply State.Keeps.modCell | split
    | exact fun _ => rfl | exact rfl

/-! ### The expiries of an increment (R12) -/

theorem State.Keeps.takeCommandExpiry {s t : State} (h : s.Keeps t) (p : Place) : s.Keeps (t.takeCommandExpiry p) := by
  unfold State.takeCommandExpiry
  split <;> first | exact h.expireCommand p | exact h

theorem State.Keeps.takeLateEndExpiry {s t : State} (h : s.Keeps t) (p : Place) : s.Keeps (t.takeLateEndExpiry p) := by
  unfold State.takeLateEndExpiry
  split <;> first | exact h.expireLateEnd p | exact h

theorem State.Keeps.takeCellExpiries {s t : State} (h : s.Keeps t) (c : CellNo) : s.Keeps (t.takeCellExpiries c) := by
  have h1 : s.Keeps (t.takeSetupExpiry c) := by
    unfold State.takeSetupExpiry; split <;> first | exact h.expireSetup c | exact h
  have h2 : s.Keeps ((t.takeSetupExpiry c).takeSoakExpiry c) := by
    unfold State.takeSoakExpiry; split <;> first | exact h1.expireSoak c | exact h1
  unfold State.takeCellExpiries State.takeStopExpiry
  split <;> first | exact h2.expireStop c | exact h2

/-- A fold of an operation that keeps what the work inside the part keeps. -/
theorem State.Keeps.foldl {α : Type} {s t : State} (h : s.Keeps t) {f : State → α → State}
    (hf : ∀ (u : State) (x : α), s.Keeps u → s.Keeps (f u x)) (xs : List α) : s.Keeps (xs.foldl f t) := by
  induction xs generalizing t with
  | nil => exact h
  | cons x xs ih => exact ih (hf _ _ h)

theorem State.Keeps.expireAll {s t : State} (h : s.Keeps t) : s.Keeps t.expireAll :=
  ((h.foldl (fun _ p k => k.takeCommandExpiry p) _).foldl (fun _ p k => k.takeLateEndExpiry p) _).foldl
    (fun _ c k => k.takeCellExpiries c) _

theorem State.Keeps.assign {s t : State} (h : s.Keeps t) (l : Lot) (o : Offer) (cls : Nat) :
    s.Keeps (t.assign l o cls) := by
  unfold State.assign
  try dsimp only
  repeat' first
    | with_reducible exact h | with_reducible apply State.Keeps.enterSetup | with_reducible apply State.Keeps.enterPreparing
    | with_reducible apply State.Keeps.post | with_reducible apply State.Keeps.modCell
    | with_reducible apply State.Keeps.leaveQueue | with_reducible apply State.Keeps.modLot | split | exact rfl
    | exact fun _ => rfl

theorem State.Keeps.walkOne {s t : State} (h : s.Keeps t) (now : Tick) (head : Bool) (l : Lot) (free : List CellNo) :
    s.Keeps (t.walkOne now head l free).1 := by
  unfold State.walkOne
  repeat' first | with_reducible exact h | with_reducible apply State.Keeps.assign | split

theorem State.Keeps.walk {s t : State} (h : s.Keeps t) (now : Tick) (head : Bool) (ls : List Lot) (free : List CellNo) :
    s.Keeps (t.walk now head ls free) := by
  induction ls generalizing t head free with
  | nil => exact h
  | cons l ls ih => exact ih (h.walkOne _ _ _ _) _ _

theorem State.Keeps.clearPending {s t : State} (h : s.Keeps t) : s.Keeps { t with evalPending := false } :=
  h.trans ⟨rfl, rfl, rfl, rfl, rfl, rfl, rfl, rfl, rfl, rfl, ⟨[], by simp, fun h => h⟩, rfl, fun _ => rfl, fun _ => ⟨rfl, rfl⟩⟩

theorem State.Keeps.evaluate {s t : State} (h : s.Keeps t) : s.Keeps t.evaluate := h.clearPending.walk _ _ _ _

end Sys2Proof.Machine
end

