-- ==== Sys2Proof/Laws/PerInstr.lean ====
section
/-! SUPPORT. One lemma for each command: the payload of a request has the size that fits its kind (R4). -/

namespace Sys2Proof

@[simp] theorem splitWord_length (x : BitVec 16) : (splitWord x).length = 2 := rfl
@[simp] theorem splitLong_length (x : BitVec 32) : (splitLong x).length = 4 := rfl
@[simp] theorem splitLongs_length (v : Vector (BitVec 32) 16) : (splitLongs v).length = 64 := by
  simp [splitLongs, List.length_flatMap]
@[simp] theorem RawPolicy.payload_length (p : RawPolicy) : p.payload.length = 16 := rfl
@[simp] theorem RawStep.payload_length (x : RawStep) : x.payload.length = 14 := rfl

/-- The steps of a STAGE PRODUCT payload take 14 bytes each. -/
@[simp] theorem steps_payload_length (xs : List RawStep) : (xs.flatMap RawStep.payload).length = xs.length * 14 := by
  simp [List.length_flatMap]

theorem RawVersion.payload_length (v : RawVersion) : v.payload.length = 99 + 14 * v.steps.length := by
  simp [RawVersion.payload]; omega

/-- The step count of a STAGE PRODUCT payload stands at its third byte. -/
theorem RawVersion.payload_count (v : RawVersion) : v.payload.getD 2 0 = BitVec.ofNat 8 v.steps.length := by
  simp [RawVersion.payload, splitWord, List.getD]

end Sys2Proof

namespace Sys2Proof.Laws

/-- R4: a request's payload has the size that fits its kind; the rows that are no request have no kind. -/
def PayloadFits.Statement (i : Instr) : Prop :=
  i.wellFormed = true → ∀ k, i.requestKind = some k → fittingSize k i.payload = some i.payload.length

theorem PayloadFits.frameStart (b : Byte) :
    PayloadFits.Statement (.frameStart b) := by
  intro _ k hk
  cases hk
theorem PayloadFits.byteGathered (b : Byte) :
    PayloadFits.Statement (.byteGathered b) := by
  intro _ k hk
  cases hk
theorem PayloadFits.lengthDiscard (b : Byte) :
    PayloadFits.Statement (.lengthDiscard b) := by
  intro _ k hk
  cases hk
theorem PayloadFits.interByteGapExpiry :
    PayloadFits.Statement .interByteGapExpiry := by
  intro _ k hk
  cases hk
theorem PayloadFits.checkFailed (b : Byte) :
    PayloadFits.Statement (.checkFailed b) := by
  intro _ k hk
  cases hk
theorem PayloadFits.frameReceived (b : Byte) :
    PayloadFits.Statement (.frameReceived b) := by
  intro _ k hk
  cases hk
theorem PayloadFits.busy (b : Byte) :
    PayloadFits.Statement (.busy b) := by
  intro _ k hk
  cases hk
theorem PayloadFits.replyListFullDrop (b : Byte) :
    PayloadFits.Statement (.replyListFullDrop b) := by
  intro _ k hk
  cases hk
theorem PayloadFits.replySent :
    PayloadFits.Statement .replySent := by
  intro _ k hk
  cases hk
theorem PayloadFits.fullReset (cause : ResetCause) :
    PayloadFits.Statement (.fullReset cause) := by
  intro _ k hk
  cases hk
theorem PayloadFits.resetEnd :
    PayloadFits.Statement .resetEnd := by
  intro _ k hk
  cases hk
theorem PayloadFits.tick :
    PayloadFits.Statement .tick := by
  intro _ k hk
  cases hk
theorem PayloadFits.identify (tag : Byte) :
    PayloadFits.Statement (.identify tag) := by
  intro _ k hk
  obtain rfl : _ = k := Option.some.inj hk
  simp [fittingSize, Instr.payload]
theorem PayloadFits.fetchEvents (tag : Byte) :
    PayloadFits.Statement (.fetchEvents tag) := by
  intro _ k hk
  obtain rfl : _ = k := Option.some.inj hk
  simp [fittingSize, Instr.payload]
theorem PayloadFits.setAttention (tag : Byte) (fields : Vector Byte 7) :
    PayloadFits.Statement (.setAttention tag fields) := by
  intro _ k hk
  obtain rfl : _ = k := Option.some.inj hk
  simp [fittingSize, Instr.payload]
theorem PayloadFits.setPolicy (tag : Byte) (fields : RawPolicy) :
    PayloadFits.Statement (.setPolicy tag fields) := by
  intro _ k hk
  obtain rfl : _ = k := Option.some.inj hk
  simp [fittingSize, Instr.payload]
theorem PayloadFits.commitPolicy (tag : Byte) :
    PayloadFits.Statement (.commitPolicy tag) := by
  intro _ k hk
  obtain rfl : _ = k := Option.some.inj hk
  simp [fittingSize, Instr.payload]
theorem PayloadFits.readPolicy (tag : Byte) :
    PayloadFits.Statement (.readPolicy tag) := by
  intro _ k hk
  obtain rfl : _ = k := Option.some.inj hk
  simp [fittingSize, Instr.payload]
theorem PayloadFits.pollSent (t : TrunkNo) :
    PayloadFits.Statement (.pollSent t) := by
  intro _ k hk
  cases hk
theorem PayloadFits.roundGapExpiry (t : TrunkNo) :
    PayloadFits.Statement (.roundGapExpiry t) := by
  intro _ k hk
  cases hk
theorem PayloadFits.answerTaken (t : TrunkNo) (bytes : List Byte) :
    PayloadFits.Statement (.answerTaken t bytes) := by
  intro _ k hk
  cases hk
theorem PayloadFits.pollMiss (t : TrunkNo) :
    PayloadFits.Statement (.pollMiss t) := by
  intro _ k hk
  cases hk
theorem PayloadFits.commandDeadlineExpiry (p : Place) :
    PayloadFits.Statement (.commandDeadlineExpiry p) := by
  intro _ k hk
  cases hk
theorem PayloadFits.lateEndWaitExpiry (p : Place) :
    PayloadFits.Statement (.lateEndWaitExpiry p) := by
  intro _ k hk
  cases hk
theorem PayloadFits.enrollStation (tag : Byte) (trunk : Byte) (address : Byte) (kind : Byte) :
    PayloadFits.Statement (.enrollStation tag trunk address kind) := by
  intro _ k hk
  obtain rfl : _ = k := Option.some.inj hk
  simp [fittingSize, Instr.payload]
theorem PayloadFits.retireStation (tag : Byte) (al : Byte) :
    PayloadFits.Statement (.retireStation tag al) := by
  intro _ k hk
  obtain rfl : _ = k := Option.some.inj hk
  simp [fittingSize, Instr.payload]
theorem PayloadFits.readStation (tag : Byte) (al : Byte) :
    PayloadFits.Statement (.readStation tag al) := by
  intro _ k hk
  obtain rfl : _ = k := Option.some.inj hk
  simp [fittingSize, Instr.payload]
theorem PayloadFits.defineAlias (tag : Byte) (al : Byte) (answering : Byte) (places : List Byte) :
    PayloadFits.Statement (.defineAlias tag al answering places) := by
  intro h k hk
  simp only [Instr.wellFormed, wfPlaces, decide_eq_true_eq] at h
  obtain rfl : _ = k := Option.some.inj hk
  simp [fittingSize, Instr.payload, Nat.mod_eq_of_lt (Nat.lt_succ_of_le h)]
  omega
theorem PayloadFits.deleteAlias (tag : Byte) (al : Byte) :
    PayloadFits.Statement (.deleteAlias tag al) := by
  intro _ k hk
  obtain rfl : _ = k := Option.some.inj hk
  simp [fittingSize, Instr.payload]
theorem PayloadFits.readAlias (tag : Byte) (al : Byte) :
    PayloadFits.Statement (.readAlias tag al) := by
  intro _ k hk
  obtain rfl : _ = k := Option.some.inj hk
  simp [fittingSize, Instr.payload]
theorem PayloadFits.stationPass (tag : Byte) (al : Byte) (trunk : Byte) (address : Byte) (command : List Byte) :
    PayloadFits.Statement (.stationPass tag al trunk address command) := by
  intro h k hk
  simp only [Instr.wellFormed, wfPassBytes, decide_eq_true_eq] at h
  obtain rfl : _ = k := Option.some.inj hk
  simp [fittingSize, Instr.payload, Nat.mod_eq_of_lt (Nat.lt_succ_of_le h)]
  omega
theorem PayloadFits.stageProduct (tag : Byte) (version : RawVersion) :
    PayloadFits.Statement (.stageProduct tag version) := by
  intro h k hk
  simp only [Instr.wellFormed, wfVersion, decide_eq_true_eq] at h
  obtain rfl : _ = k := Option.some.inj hk
  simp only [fittingSize, Instr.payload, RawVersion.payload_length, RawVersion.payload_count]
  simp [Nat.mod_eq_of_lt (show version.steps.length < 256 by omega)]
theorem PayloadFits.activateProduct (tag : Byte) (product : ProductNo) :
    PayloadFits.Statement (.activateProduct tag product) := by
  intro _ k hk
  obtain rfl : _ = k := Option.some.inj hk
  simp [fittingSize, Instr.payload]
theorem PayloadFits.discardStaged (tag : Byte) (product : ProductNo) :
    PayloadFits.Statement (.discardStaged tag product) := by
  intro _ k hk
  obtain rfl : _ = k := Option.some.inj hk
  simp [fittingSize, Instr.payload]
theorem PayloadFits.deleteProduct (tag : Byte) (product : ProductNo) :
    PayloadFits.Statement (.deleteProduct tag product) := by
  intro _ k hk
  obtain rfl : _ = k := Option.some.inj hk
  simp [fittingSize, Instr.payload]
theorem PayloadFits.readProduct (tag : Byte) (product : ProductNo) (selector : Byte) :
    PayloadFits.Statement (.readProduct tag product selector) := by
  intro _ k hk
  obtain rfl : _ = k := Option.some.inj hk
  simp [fittingSize, Instr.payload]
theorem PayloadFits.setBaseline (tag : Byte) (product : ProductNo) (step : Byte) (count : BitVec 16) (values : Vector (BitVec 32) 16) :
    PayloadFits.Statement (.setBaseline tag product step count values) := by
  intro _ k hk
  obtain rfl : _ = k := Option.some.inj hk
  simp [fittingSize, Instr.payload]
theorem PayloadFits.readBaseline (tag : Byte) (product : ProductNo) (step : Byte) :
    PayloadFits.Statement (.readBaseline tag product step) := by
  intro _ k hk
  obtain rfl : _ = k := Option.some.inj hk
  simp [fittingSize, Instr.payload]
theorem PayloadFits.createLot (tag : Byte) (lot : LotNo) (product : ProductNo) (quantity : BitVec 32) (priority : Byte) (ticket : BitVec 32) :
    PayloadFits.Statement (.createLot tag lot product quantity priority ticket) := by
  intro _ k hk
  obtain rfl : _ = k := Option.some.inj hk
  simp [fittingSize, Instr.payload]
theorem PayloadFits.setPriority (tag : Byte) (lot : LotNo) (priority : Byte) :
    PayloadFits.Statement (.setPriority tag lot priority) := by
  intro _ k hk
  obtain rfl : _ = k := Option.some.inj hk
  simp [fittingSize, Instr.payload]
theorem PayloadFits.readLot (tag : Byte) (lot : LotNo) (selector : Byte) :
    PayloadFits.Statement (.readLot tag lot selector) := by
  intro _ k hk
  obtain rfl : _ = k := Option.some.inj hk
  simp [fittingSize, Instr.payload]
theorem PayloadFits.listLots (tag : Byte) (filter : Byte) (start : Byte) :
    PayloadFits.Statement (.listLots tag filter start) := by
  intro _ k hk
  obtain rfl : _ = k := Option.some.inj hk
  simp [fittingSize, Instr.payload]
theorem PayloadFits.purgeLot (tag : Byte) (lot : LotNo) :
    PayloadFits.Statement (.purgeLot tag lot) := by
  intro _ k hk
  obtain rfl : _ = k := Option.some.inj hk
  simp [fittingSize, Instr.payload]
theorem PayloadFits.dockCell (tag : Byte) (cell : Byte) (handlerAlias : Byte) (testerAlias : Byte) :
    PayloadFits.Statement (.dockCell tag cell handlerAlias testerAlias) := by
  intro _ k hk
  obtain rfl : _ = k := Option.some.inj hk
  simp [fittingSize, Instr.payload]
theorem PayloadFits.undockCell (tag : Byte) (cell : Byte) :
    PayloadFits.Statement (.undockCell tag cell) := by
  intro _ k hk
  obtain rfl : _ = k := Option.some.inj hk
  simp [fittingSize, Instr.payload]
theorem PayloadFits.readCell (tag : Byte) (cell : Byte) :
    PayloadFits.Statement (.readCell tag cell) := by
  intro _ k hk
  obtain rfl : _ = k := Option.some.inj hk
  simp [fittingSize, Instr.payload]
theorem PayloadFits.resetCell (tag : Byte) (cell : Byte) :
    PayloadFits.Statement (.resetCell tag cell) := by
  intro _ k hk
  obtain rfl : _ = k := Option.some.inj hk
  simp [fittingSize, Instr.payload]
theorem PayloadFits.recoveryTimerExpiry (c : CellNo) :
    PayloadFits.Statement (.recoveryTimerExpiry c) := by
  intro _ k hk
  cases hk
theorem PayloadFits.setupExpired (c : CellNo) :
    PayloadFits.Statement (.setupExpired c) := by
  intro _ k hk
  cases hk
theorem PayloadFits.soakDeadlineExpiry (c : CellNo) :
    PayloadFits.Statement (.soakDeadlineExpiry c) := by
  intro _ k hk
  cases hk
theorem PayloadFits.stopExpired (c : CellNo) :
    PayloadFits.Statement (.stopExpired c) := by
  intro _ k hk
  cases hk
theorem PayloadFits.loadProgram (tag : Byte) (al : Byte) (slot : Byte) (programId : BitVec 16) (programRevision : Byte) (check : BitVec 32) :
    PayloadFits.Statement (.loadProgram tag al slot programId programRevision check) := by
  intro _ k hk
  obtain rfl : _ = k := Option.some.inj hk
  simp [fittingSize, Instr.payload]
theorem PayloadFits.eraseSlot (tag : Byte) (al : Byte) (slot : Byte) :
    PayloadFits.Statement (.eraseSlot tag al slot) := by
  intro _ k hk
  obtain rfl : _ = k := Option.some.inj hk
  simp [fittingSize, Instr.payload]
theorem PayloadFits.verifySlot (tag : Byte) (al : Byte) (slot : Byte) :
    PayloadFits.Statement (.verifySlot tag al slot) := by
  intro _ k hk
  obtain rfl : _ = k := Option.some.inj hk
  simp [fittingSize, Instr.payload]
theorem PayloadFits.qualifySlot (tag : Byte) (al : Byte) (slot : Byte) :
    PayloadFits.Statement (.qualifySlot tag al slot) := by
  intro _ k hk
  obtain rfl : _ = k := Option.some.inj hk
  simp [fittingSize, Instr.payload]
theorem PayloadFits.setLockOverride (tag : Byte) (al : Byte) (value : Byte) :
    PayloadFits.Statement (.setLockOverride tag al value) := by
  intro _ k hk
  obtain rfl : _ = k := Option.some.inj hk
  simp [fittingSize, Instr.payload]
theorem PayloadFits.purgeTester (tag : Byte) (al : Byte) :
    PayloadFits.Statement (.purgeTester tag al) := by
  intro _ k hk
  obtain rfl : _ = k := Option.some.inj hk
  simp [fittingSize, Instr.payload]
theorem PayloadFits.setProtectFloor (tag : Byte) (al : Byte) (value : Byte) :
    PayloadFits.Statement (.setProtectFloor tag al value) := by
  intro _ k hk
  obtain rfl : _ = k := Option.some.inj hk
  simp [fittingSize, Instr.payload]
theorem PayloadFits.clearTesterErrors (tag : Byte) (al : Byte) :
    PayloadFits.Statement (.clearTesterErrors tag al) := by
  intro _ k hk
  obtain rfl : _ = k := Option.some.inj hk
  simp [fittingSize, Instr.payload]
theorem PayloadFits.readTester (tag : Byte) (al : Byte) :
    PayloadFits.Statement (.readTester tag al) := by
  intro _ k hk
  obtain rfl : _ = k := Option.some.inj hk
  simp [fittingSize, Instr.payload]
theorem PayloadFits.dispatchEvaluation :
    PayloadFits.Statement .dispatchEvaluation := by
  intro _ k hk
  cases hk
theorem PayloadFits.agePromotion :
    PayloadFits.Statement .agePromotion := by
  intro _ k hk
  cases hk
theorem PayloadFits.cancelAssignment (tag : Byte) (lot : LotNo) :
    PayloadFits.Statement (.cancelAssignment tag lot) := by
  intro _ k hk
  obtain rfl : _ = k := Option.some.inj hk
  simp [fittingSize, Instr.payload]
theorem PayloadFits.readQueue (tag : Byte) :
    PayloadFits.Statement (.readQueue tag) := by
  intro _ k hk
  obtain rfl : _ = k := Option.some.inj hk
  simp [fittingSize, Instr.payload]
theorem PayloadFits.readInsertion (tag : Byte) (lot : LotNo) (step : Byte) :
    PayloadFits.Statement (.readInsertion tag lot step) := by
  intro _ k hk
  obtain rfl : _ = k := Option.some.inj hk
  simp [fittingSize, Instr.payload]
theorem PayloadFits.holdLot (tag : Byte) (lot : LotNo) :
    PayloadFits.Statement (.holdLot tag lot) := by
  intro _ k hk
  obtain rfl : _ = k := Option.some.inj hk
  simp [fittingSize, Instr.payload]
theorem PayloadFits.dispose (tag : Byte) (lot : LotNo) (cause : Byte) (verdict : Byte) :
    PayloadFits.Statement (.dispose tag lot cause verdict) := by
  intro _ k hk
  obtain rfl : _ = k := Option.some.inj hk
  simp [fittingSize, Instr.payload]
theorem PayloadFits.readHolds (tag : Byte) (lot : LotNo) :
    PayloadFits.Statement (.readHolds tag lot) := by
  intro _ k hk
  obtain rfl : _ = k := Option.some.inj hk
  simp [fittingSize, Instr.payload]
theorem PayloadFits.releaseLot (tag : Byte) (lot : LotNo) (ticket : BitVec 32) :
    PayloadFits.Statement (.releaseLot tag lot ticket) := by
  intro _ k hk
  obtain rfl : _ = k := Option.some.inj hk
  simp [fittingSize, Instr.payload]
theorem PayloadFits.shipConfirm (tag : Byte) (lot : LotNo) :
    PayloadFits.Statement (.shipConfirm tag lot) := by
  intro _ k hk
  obtain rfl : _ = k := Option.some.inj hk
  simp [fittingSize, Instr.payload]
theorem PayloadFits.readReleaseQueue (tag : Byte) :
    PayloadFits.Statement (.readReleaseQueue tag) := by
  intro _ k hk
  obtain rfl : _ = k := Option.some.inj hk
  simp [fittingSize, Instr.payload]

end Sys2Proof.Laws
end

