-- ==== Sys2Proof/Tests/Slice0.lean ====
section
/-! SUPPORT. Tests: the checks of well-formedness, worked values of the spec, and for each statement a state and operands that
meet its hypotheses, clause by clause, with what the command does there. -/

set_option Elab.async false

namespace Sys2Proof.Tests

open Sys2Proof.Machine

/-! ### A small floor: a handler at place 0, a tester at place 1, one product, one lot -/

/-- The state after a command that goes on. -/
def after (i : Instr) (s : State) : State :=
  match exec i s with
  | .next t => t
  | .fault _ => State.reset
  | .refused _ => State.reset

/-- A command goes on. -/
def goesOn (i : Instr) (s : State) : Bool :=
  match exec i s with
  | .next _ => true
  | .fault _ => false
  | .refused _ => false

/-- The last reply's payload. -/
def said (s : State) : Option (List Byte) := s.replies.getLast?.map fun r => r.payload

/-- The kinds of the events posted after the first, RESET_DONE. -/
def news (s : State) : List EventKind := (s.events.drop 1).map fun e => e.kind

def prog : ProgramId := { id := 5, revision := 1, check := 9 }

def route (soak : Nat) : RouteStep := { setpoint := 250, window := 50, soak := soak, kit := 3, program := prog }

def version : Version :=
  { product := 7, good := Vector.ofFn fun b => b.val == 1, margins := Vector.replicate 16 100, gain := 16, shift := 3
    sampleMin := 10, yieldFloor := 9000, learnMin := 2, lossAllowance := 1
    enables := { countOver := true, tallyGap := true, countShort := true, tempExcursion := true, binLimit := true
                 yieldLow := true }
    requireLearned := false, steps := [route 10, route 0] }

def product : Product :=
  { number := 7, active := some version, staged := none, revision := 1, baselines := [Baseline.zero, Baseline.zero] }

def lot : Lot :=
  { number := 5, product := 7, revision := 1, snapshot := version, startQuantity := 100, ticket := 77, priority := 2
    state := .waiting, currentStep := 1, stamp := 1, enqueueTick := 0, cell := none, records := newRecords 100 2, holds := []
    attempts := 0, shipQuantity := none, release := none }

def online (kind : StationKind) : Station := { Station.enrol kind with state := .online }

def dock : Dock := { handler := 0, handlerAlias := 1, tester := 1, testerAlias := 2, kit := 3, recovery := 0 }

def bay : Cell := { Cell.reset with state := .idle, dock := some dock, commanded := some 250, lastTemp := some (250, 0) }

def slotOf (state : SlotState) : Slot :=
  { state := state, program := some (5, 1), check := some 9, locked := false, lastSelected := none }

def tester : Tester := { Tester.reset with slots := Tester.reset.slots.set 0 (slotOf .verified) }

/-- The floor, its one lot in the dispatch queue and its cell IDLE. -/
def bench : State :=
  { State.reset with
    committed := true, evalPending := true
    stations := (State.reset.stations.set 0 (online .handler)).set 1 (online .tester)
    aliases := [{ number := 1, members := [0], answering := 0 }, { number := 2, members := [1], answering := 1 },
      { number := 3, members := [0, 1], answering := 0 }, { number := 4, members := [9], answering := 9 }]
    catalog := [product], lots := [lot], dispatchQueue := [5], nextStamp := 2
    cells := State.reset.cells.set 0 bay, testers := State.reset.testers.set 1 tester }

/-- The floor with its lot changed. -/
def withLot (f : Lot → Lot) : State := { bench with lots := [f lot] }

def hold (cause : Cause) : Hold := { cause := cause, step := 1, tick := 0, bins := [] }

/-- The floor with the lot on its cell, in the states given. -/
def atWork (c : CellState) (l : LotState) (f : Cell → Cell := id) : State :=
  { withLot fun x => { x with state := l, cell := some 0 } with
    dispatchQueue := []
    cells := bench.cells.set 0 (f { bay with state := c, work := some { lot := 5, step := 1 } }) }

/-- The floor with the lot RUNNING and its record open under number 9. -/
def running (c : CellState) (f : Cell → Cell := id) : State :=
  { atWork c .running (fun x => f { x with insertion := some 9 }) with
    lots := [{ lot with
      state := .running, cell := some 0
      records := [{ Insertion.new (some 100) with outcome := .running, number := some 9, segments := 1 },
        Insertion.new none] }] }

/-- A deadline that has come at tick 0. -/
def come : Deadline := { start := 0 - 20, span := 20 }

/-- The floor with a poll out on trunk 0 to the place given. -/
def polled (p : Place) (s : State) : State :=
  s.setTrunk 0 { position := some (addrOf p), gap := none
                 outstanding := some { place := p, windowMs := 8, frame := [], abandoned := false } }

/-- The floor with a station put in place of another. -/
def withStation (p : Place) (x : Station) : State := bench.setStation p x

/-- The answer of an address of trunk 0 is taken, and the state is another's but that the poll has ended and its trunk settled. -/
def answersTo (a : AddrIx) (status : Byte) (report : List Byte) (s u : State) : Bool :=
  let i := Instr.answerTaken 0 (answerBytes (a.val + 1) status report)
  let v := after i s
  goesOn i s && v == { u with trunks := v.trunks } && decide (s.PollEnds v 0)

/-- The state after the answer of an address of trunk 0. -/
def told (a : AddrIx) (status : Byte) (report : List Byte) (s : State) : State :=
  after (.answerTaken 0 (answerBytes (a.val + 1) status report)) s

/-- A state with a poll out to the place given, a command of which is in flight. -/
def inFlight (p : Place) (c : Command) (s : State) : State :=
  polled p (s.modStation p fun x =>
    { x with inFlight := some { command := c, sentAt := 0, deadline := { start := 0, span := 50 } } })

/-- The state with the flight of a place empty. -/
def landed (p : Place) (s : State) : State := s.modStation p fun x => { x with inFlight := none }

/-- The floor without its cell. -/
def undocked : State := { bench with cells := State.reset.cells }

/-! ### Well-formedness -/

theorem test_places_too_long_refused :
    (Instr.defineAlias 0 1 0 (List.replicate 256 0)).wellFormed = false := by decide +kernel
theorem test_pass_bytes_too_long_refused :
    (Instr.stationPass 0 1 0 0 (List.replicate 256 0)).wellFormed = false := by decide +kernel

def rawStep : RawStep :=
  { setpoint := 250, window := 50, soak := 10, kit := 3, programId := 5, programRevision := 1, check := 9 }

def rawVersion (n : Nat) : RawVersion :=
  { product := 7, good := Vector.ofFn fun b => if b.val = 1 then 2 else 0, margins := Vector.replicate 16 70000, gain := 16
    shift := 0, sampleMin := 10, yieldFloor := 9000, learnMin := 2, lossAllowance := 1, enables := Vector.replicate 6 1
    requireLearned := 0, steps := List.replicate n rawStep }

theorem test_version_too_long_refused : (Instr.stageProduct 0 (rawVersion 67)).wellFormed = false := by decide +kernel
theorem test_answer_too_short_refused : (Instr.answerTaken 0 [0x81, 0, 0, 0]).wellFormed = false := by decide +kernel
theorem test_well_formed_accepted :
    (Instr.stageProduct 0 (rawVersion 2)).wellFormed = true ∧ (Instr.defineAlias 0 1 0 [0]).wellFormed = true ∧
      (Instr.stationPass 0 1 0 0 [1]).wellFormed = true ∧
      (Instr.answerTaken 0 (answerBytes 1 0 [])).wellFormed = true := by decide +kernel

/-! ### Worked values of the spec -/

/-- R2: the CRC over the nine bytes 0x31 to 0x39 is 0x29B1. -/
theorem test_crc : crc16 [0x31, 0x32, 0x33, 0x34, 0x35, 0x36, 0x37, 0x38, 0x39] = 0x29B1 := by decide +kernel

/-- Section 1.9: two increments of 0xABC and 0x123 take the three bytes AB C1 23. -/
theorem test_increments_unpack : unpackIncrements [0xAB, 0xC1, 0x23] = [0xABC, 0x123] := by decide

/-- No row of the table carries bits, so no word spells a command. -/
theorem test_no_word_spells_a_command : decodeTableWord 8 1 = none := by decide

/-! ### Chapter 1: states and operands that meet the statements' hypotheses -/

/-- The receiver in a state. -/
def receiving (phase : RxPhase) (buffer : List Byte) (s : State) : State :=
  { s with receiver := { phase := phase, buffer := buffer } }

/-- All but the last byte of a frame. -/
def butLast (frame : List Byte) : List Byte := frame.dropLast

/-- A state whose reply list holds a number of replies. -/
def withReplies (n : Nat) (s : State) : State :=
  { s with replies := List.replicate n { kind := 0x81, tag := 0, payload := [0] } }

/-- A state that serves a request, with its reply deferred or not. -/
def servingOf (i : Instr) (deferred : Option Place) (s : State) : State :=
  { s with serving := some { request := i, deferred := deferred } }

/-- For StepRunsFrontCommand. -/
theorem witness_step : step { bench with pending := [.tick, .replySent] } = exec .tick { bench with pending := [.replySent] } ∧
    step bench = .next bench := ⟨rfl, rfl⟩

/-- R1, at the ends 2 and 1026 of the length's range and just outside them. For BytesAreGathered. -/
theorem witness_bytes :
    after (.frameStart 0xA5) bench = receiving .header [0xA5] bench ∧ after (.frameStart 0xA4) bench = bench ∧
    after (.byteGathered 0) (receiving .header [0xA5] bench) = receiving .header [0xA5, 0] bench ∧
    after (.byteGathered 2) (receiving .header [0xA5, 0] bench) = receiving .body [0xA5, 0, 2] bench ∧
    after (.byteGathered 2) (receiving .header [0xA5, 4] bench) = receiving .body [0xA5, 4, 2] bench ∧
    after (.lengthDiscard 1) (receiving .header [0xA5, 0] bench) = receiving .hunt [] bench ∧
    after (.lengthDiscard 3) (receiving .header [0xA5, 4] bench) = receiving .hunt [] bench ∧
    after (.byteGathered 7) (receiving .body [0xA5, 0, 2, 1, 1] bench) = receiving .body [0xA5, 0, 2, 1, 1, 7] bench ∧
    after .interByteGapExpiry (receiving .body [0xA5, 0, 2, 1, 1] bench) = receiving .hunt [] bench ∧
    after .interByteGapExpiry (receiving .header [0xA5] bench) = receiving .hunt [] bench := by decide +kernel

/-- The IDENTIFY frame with tag 9, written out: its check over 00 02 01 09 is the CRC of R2. -/
def identifyFrame : List Byte := linkFrame 1 9 []

theorem test_identify_frame_bytes : identifyFrame.take 5 = [0xA5, 0x00, 0x02, 0x01, 0x09] ∧ identifyFrame.length = 7 := by
  decide

/-- The floor with all of a frame but its last byte received. -/
def atLastByte (frame : List Byte) (s : State) : State := receiving .body (butLast frame) s
def lastOf (frame : List Byte) : Byte := frame.getLastD 0

/-- For WholeFramesAndReplies. -/
theorem witness_whole_frames :
    (atLastByte identifyFrame bench).Completes (lastOf identifyFrame) 1 9 [] (rightCheck 1 9 []) ∧
    (atLastByte identifyFrame bench).Completes 0 1 9 [] ((rightCheck 1 9 []).take 1 ++ [0]) ∧
    (rightCheck 1 9 []).take 1 ++ [0] ≠ rightCheck 1 9 [] ∧
    after (.checkFailed 0) (atLastByte identifyFrame bench) = receiving .hunt [] bench ∧
    after (.replyListFullDrop (lastOf identifyFrame)) (atLastByte identifyFrame (withReplies 4 bench)) =
      receiving .hunt [] (withReplies 4 bench) ∧
    after (.replyListFullDrop (lastOf identifyFrame)) (atLastByte identifyFrame (servingOf .tick none (withReplies 3 bench))) =
      receiving .hunt [] (servingOf .tick none (withReplies 3 bench)) ∧
    after (.busy (lastOf identifyFrame)) (atLastByte identifyFrame (servingOf .tick none (withReplies 2 bench))) =
      (receiving .hunt [] (servingOf .tick none (withReplies 2 bench))).replied 0x81 9 [2] ∧
    after .replySent (withReplies 2 bench) = withReplies 1 bench ∧
    (withReplies 2 bench).linkBytes .replySent = [0xA5, 0, 3, 0x81, 0, 0] ++ rightCheck 0x81 0 [0] := by decide +kernel

/-- For FramesAreExamined. -/
theorem witness_frames_examined :
    bench.Listening ∧ (withReplies 3 bench).Listening ∧
    after (.frameReceived (lastOf identifyFrame)) (atLastByte identifyFrame bench) =
      receiving .hunt [] (servingOf (.identify 9) none bench) ∧
    (let f := linkFrame 0x31 4 [0, 0, 0, 5, 3]
     after (.frameReceived (lastOf f)) (atLastByte f bench) =
       receiving .hunt [] (servingOf (.setPriority 4 5 3) none bench)) ∧
    (let f := linkFrame 0x7F 4 []
     after (.frameReceived (lastOf f)) (atLastByte f bench) = (receiving .hunt [] bench).replied 0xFF 4 [4]) ∧
    (let f := linkFrame 0x31 4 [0, 0, 0, 5]
     after (.frameReceived (lastOf f)) (atLastByte f bench) = (receiving .hunt [] bench).replied 0xB1 4 [3]) := by
  decide +kernel

/-- Payloads written out from the fields of the requests (R22, R35, R42, R60, R102) read as those requests. For RequestRoundTrip. -/
theorem test_payloads_read :
    examine 0x10 9 [1, 8, 2] = .request (.enrollStation 9 1 8 2) ∧
    examine 0x13 9 [5, 2, 3, 3, 4] = .request (.defineAlias 9 5 3 [3, 4]) ∧
    examine 0x30 9 [0, 0, 0x1C, 0xB7, 0, 7, 0, 0, 1, 0x2C, 2, 0xDE, 0xAD, 0xBE, 0xEF] =
      .request (.createLot 9 7351 7 300 2 0xDEADBEEF) ∧
    examine 0x40 9 [2, 7, 0x0F, 0xFF, 3, 0x12, 0x34, 0x56, 0x78] = .request (.loadProgram 9 2 7 4095 3 0x12345678) ∧
    examine 0x20 9 (rawVersion 2).payload = .request (.stageProduct 9 (rawVersion 2)) := by decide +kernel

/-- For CommandsTurnedAway. -/
theorem witness_turned_away :
    after (.readQueue 8) (servingOf .tick none (withReplies 2 bench)) =
      (servingOf .tick none (withReplies 2 bench)).replied 0xD1 8 [2] ∧
    after (.readQueue 8) (servingOf (.readQueue 8) (some 1) (withReplies 3 bench)) =
      servingOf (.readQueue 8) (some 1) (withReplies 3 bench) ∧
    after (.readQueue 8) (withReplies 4 bench) = withReplies 4 bench ∧
    goesOn (.readQueue 8) (servingOf (.readQueue 8) none (withReplies 3 bench)) = true ∧
    after (.readQueue 8) (servingOf (.readQueue 8) none (withReplies 3 bench)) = after (.readQueue 8) (withReplies 3 bench) ∧
    (after (.readQueue 8) (withReplies 3 bench)).replies.length = 4 ∧
    after .tick { bench with inReset := some .resetPin } = { bench with inReset := some .resetPin } := by decide +kernel

/-- For ResetBeginsAndEnds. -/
theorem witness_reset :
    (after (.fullReset .resetPin) { bench with inReset := some .powerOn }).inReset = some .powerOn ∧
    (after (.fullReset .resetPin) bench).inReset = some .resetPin ∧
    after .resetEnd { bench with inReset := some .powerOn, pending := [.tick] } = { State.reset with pending := [.tick] } ∧
    (after .resetEnd { bench with inReset := some .resetPin }).resetCause = .resetPin ∧
    (let s := { withReplies 2 bench with inReset := some .resetPin }
     s.linkBytes .replySent = [] ∧ s.direction (.pollSent 0) 0 = .receive) ∧
    bench.direction (.pollSent 0) 0 = .transmit ∧ bench.direction (.pollSent 0) 1 = .receive ∧
    bench.direction (.pollSent 2) 2 = .receive ∧ (polled 0 bench).direction (.pollSent 0) 0 = .receive := by decide +kernel

/-- R12, R82, R119: a countdown at 1, one held by an alarm, and the wait of 18000 ticks that lowers a class. For TickAdvances. -/
theorem witness_tick :
    (let s := { bench with
      tick := 17999, cells := bench.cells.set 0 { bay with dock := some { dock with recovery := 1 } } }
     (after .tick s).tick = 18000 ∧ ((after .tick s).cell 0).dock = some dock ∧ ((after .tick s).cell 0).recoveryDue = true ∧
       (after .tick s).ageDue = true) ∧
    (let s := { withStation 0 { online .handler with alarm := true } with
      cells := bench.cells.set 0 { bay with dock := some { dock with recovery := 1 } } }
     (after .tick s).cell 0 = s.cell 0 ∧ (after .tick s).ageDue = false) := by decide +kernel

/-- R12: TICK takes the deadlines of its increment, here 1, and leaves those of the next. For TickAdvances. -/
theorem witness_tick_expires :
    (let s := running .stopping fun x => { x with phaseDeadline := some { start := 0, span := 1 } }
     news (after .tick s) = [.stopExpired, .finding, .holdRaised, .insertionClosed] ∧ ((after .tick s).cell 0).state = .idle) ∧
    (let s := running .stopping fun x => { x with phaseDeadline := some { start := 0, span := 2 } }
     after .tick s = { s with tick := 1 }) ∧
    (let f : InFlight := { command := .stopSegment 9, sentAt := 0, deadline := { start := 0, span := 1 } }
     let s := withStation 0 { online .handler with inFlight := some f, lateEnd := some { start := 0, span := 1 } }
     (after .tick s).station 0 = { online .handler with lateEnd := some { start := 1, span := 50 } }) := by decide +kernel

/-- A floor on which no deadline stands due. For TickAdvances. -/
theorem witness_none_due : bench.NoneDue := by
  have hs : ∀ p : Place, (bench.station p).inFlight = none ∧ (bench.station p).lateEnd = none := by decide +kernel
  have hc : ∀ c : CellNo, (bench.cell c).phaseDeadline = none ∧ (bench.cell c).prep = none := by decide +kernel
  refine ⟨fun p f h => ?_, fun p d h => ?_, fun c d _ h => ?_, fun c q d _ _ h => ?_⟩
  · simp [(hs p).1] at h
  · simp [(hs p).2] at h
  · simp [(hc c).1] at h
  · simp [(hc c).2] at h

/-- For EventsJoinTheTail. -/
theorem witness_events_join :
    goesOn (.holdLot 1 5) bench = true ∧ (after (.holdLot 1 5) bench).events.length = 2 ∧
    (let full := { bench with events := List.replicate 64 { kind := .shipped, tick := 0, subject := 0, detail := [] } }
     (after (.holdLot 1 5) full).events = full.events ∧ (after (.holdLot 1 5) full).discards = 1 ∧
       (after (.holdLot 1 5) { full with discards := 255 }).discards = 255) := by decide +kernel

/-- For EventsAndAttention. -/
theorem witness_fetch_and_attention :
    (let s := { bench with
      discards := 3, events := List.replicate 9 { kind := .shipped, tick := 1, subject := 5, detail := [7] } }
     (after (.fetchEvents 2) s).events.length = 1 ∧ (after (.fetchEvents 2) s).discards = 0 ∧
       (said (after (.fetchEvents 2) s)).map (fun p => p.take 16) =
         some [0, 3, 1, 8, 6, 4, 0, 0, 0, 1, 0, 0, 0, 5, 1, 7]) ∧
    said (after (.setAttention 2 (Vector.ofFn fun i => if i.val = 0 then 9 else 0)) bench) =
      some [0, 1, 0, 0, 0, 0, 0, 0, 1, 0, 0, 0, 0, 0] ∧
    (after (.setAttention 2 (Vector.replicate 7 1)) bench).attnLow = true ∧
    (after (.setAttention 2 (Vector.ofFn fun i => if i.val = 0 then 1 else 0)) bench).attnLow = false := by decide +kernel

def rawPolicy : RawPolicy :=
  { lookahead := 9, ageStep := 0, setupTimeout := 99, commandTimeout := 601, loadTimeout := 100, stopTimeout := 6001
    recoveryTime := 6000, answerWindow := 0, roundGap := 101, openPass := 2 }

/-- For SetPolicyStoresNearestEnds and PolicyIsCommittedAndRead. -/
theorem witness_policy :
    said (after (.setPolicy 1 rawPolicy) bench) = some [10] ∧
    (after (.setPolicy 1 rawPolicy) State.reset).policy =
      { lookahead := 8, ageStep := 0, setupTimeout := 100, commandTimeout := 600, loadTimeout := 100, stopTimeout := 6000
        recoveryTime := 6000, answerWindow := 1, roundGap := 100, openPass := true } ∧
    said (after (.commitPolicy 1) bench) = some [10] ∧ (after (.commitPolicy 1) State.reset).committed = true ∧
    news (after (.commitPolicy 1) State.reset) = [.policyCommitted] ∧
    said (after (.identify 1) bench) = some [0, 0x4F, 0x24, 3, 0, 0, 0, 0, 0, 1] ∧
    said (after (.readPolicy 1) bench) =
      some [0, 4, 0x46, 0x50, 0x23, 0x28, 0, 50, 0x0B, 0xB8, 0x02, 0x58, 0x01, 0x2C, 8, 10, 0, 1] := by decide +kernel

/-- For CommittedPolicyStays. -/
theorem witness_committed_stays :
    bench.committed = true ∧ goesOn (.setPolicy 1 rawPolicy) bench = true ∧
      (after (.setPolicy 1 rawPolicy) bench).policy = bench.policy := by decide +kernel

/-! ### Chapter 2 -/

/-- For PollsGoInRounds. -/
theorem witness_polls :
    (let s := bench.setTrunk 0 { position := some 0, outstanding := none, gap := none }
     ((after (.pollSent 0) s).trunk 0).position = some 1) ∧
    (let s := withStation 0 { online .handler with queue := [.stopSegment 9] }
     ((after (.pollSent 0) s).station 0).queue = [] ∧
       ((after (.pollSent 0) s).station 0).inFlight =
         some { command := .stopSegment 9, sentAt := 0, deadline := { start := 0, span := 600 } } ∧
       ((after (.pollSent 0) s).trunk 0).outstanding.map (fun o => o.frame.take 6) = some [1, 0, 3, 0x23, 0, 9]) ∧
    ((after (.roundGapExpiry 0) (bench.setTrunk 0 { position := none, outstanding := none, gap := some 10 })).trunk 0).gap =
      none := by decide +kernel

/-- Polls written out from Section 2.3's frame and the tables of Sections 5.2 and 6.2, without their check. For PollsGoInRounds. -/
theorem witness_poll_bytes :
    (pollBytes 8 true []).take 3 = [8, 1, 0] ∧ (pollBytes 8 true []).drop 3 = checkBytes [8, 1, 0] ∧
    commandLayout (.setSetpoint 7 (-55)) = [0x21, 0xFF, 0xC9] ∧
    commandLayout (.startInsertion 258 5 1 65539) = [0x22, 1, 2, 0, 0, 0, 5, 1, 0, 1, 0, 3] ∧
    commandLayout (.slotCommand .load 7 258 3) = [0x41, 7, 1, 2, 3] ∧ commandLayout (.slotCommand .erase 7 0 0) = [0x42, 7] ∧
    commandLayout (.slotCommand .verify 7 0 0) = [0x43, 7] ∧ commandLayout (.slotCommand .select 7 0 0) = [0x44, 7] ∧
    (let s := withStation 1 { online .tester with queue := [.slotCommand .load 7 258 3] }
     let v := after (.pollSent 0) (s.setTrunk 0 { position := some 0, outstanding := none, gap := none })
     (v.trunk 0).outstanding.map (fun o => o.frame.take 8) = some [2, 0, 5, 0x41, 7, 1, 2, 3] ∧
       (v.station 1).inFlight.map (fun f => f.deadline.span) = some Policy.default.loadTimeout) := by decide +kernel

/-- For MissesAreCounted. -/
theorem witness_misses :
    (let s := polled 0 (withStation 0 { online .handler with misses := 1 })
     ((after (.pollMiss 0) s).station 0).misses = 2 ∧ (after (.pollMiss 0) s).trunk 0 =
       { position := some 0, outstanding := none, gap := none }) ∧
    (let s := polled 1 (withStation 1 { online .tester with misses := 2 })
     ((after (.pollMiss 0) s).station 1).state = .lost ∧ ((after (.pollMiss 0) s).cell 0).state = .faulted ∧
       news (after (.pollMiss 0) s) = [.stationLost, .cellFaulted] ∧
       (after (.pollMiss 0) s).trunk 0 = { position := none, outstanding := none, gap := some 10 }) ∧
    (let s := polled 1 (withStation 1 (Station.enrol .tester))
     (after (.pollMiss 0) s).station 1 = Station.enrol .tester) := by decide +kernel

/-- A poll is out to a station of the floor that has missed twice. -/
def failing (p : Place) (s : State) : State := polled p (s.modStation p fun x => { x with misses := 2 })

/-- The state of cell 0 and the details of the events after a miss of the place. -/
def lossOf (p : Place) (s : State) : CellState × List (EventKind × List Byte) :=
  let v := after (.pollMiss 0) (failing p s)
  ((v.cell 0).state, (v.events.drop 1).map fun e => (e.kind, e.detail))

/-- R94: the loss of the handler and of the tester of a cell in each state, and an abandoned poll. For MissesAreCounted. -/
theorem witness_losses :
    lossOf 0 bench = (.faulted, [(.stationLost, [0]), (.cellFaulted, [2, 0, 0, 0, 0])]) ∧
    lossOf 1 bench = (.faulted, [(.stationLost, [0]), (.cellFaulted, [3, 0, 0, 0, 0])]) ∧
    lossOf 0 (bench.setCell 0 { bay with state := .faulted }) = (.faulted, [(.stationLost, [0])]) ∧
    lossOf 0 (atWork .preparing .assigned) =
      (.faulted, [(.stationLost, [0]), (.assignmentCancelled, [0, 1, 8]), (.cellFaulted, [2, 0, 0, 0, 5])]) ∧
    lossOf 1 (atWork .setup .assigned) =
      (.faulted, [(.stationLost, [0]), (.assignmentCancelled, [0, 1, 10]), (.cellFaulted, [3, 0, 0, 0, 5])]) ∧
    (let s := polled 0 bench
     let s := s.setTrunk 0 { s.trunk 0 with outstanding := (s.trunk 0).outstanding.map fun o => { o with abandoned := true } }
     after (.answerTaken 0 (answerBytes 1 2 [])) s = s ∧ (after (.pollMiss 0) s).stations = s.stations ∧
       ((after (.pollMiss 0) s).trunk 0).outstanding = none) := by decide +kernel

/-- R94: the loss of a station of a RUNNING cell. For MissesAreCounted. -/
theorem witness_losses_at_work :
    (lossOf 0 (running .running)).1 = .faulted ∧
    (lossOf 0 (running .running)).2.map (fun e => e.1) = [.stationLost, .cellFaulted, .finding, .holdRaised, .insertionClosed] ∧
    (lossOf 0 (running .running)).2.getLast?.map (fun e => e.2.take 3) = some [1, 2, 3] ∧
    (lossOf 1 (running .stopping)).2.getLast?.map (fun e => e.2.take 3) = some [1, 2, 4] ∧
    ((after (.pollMiss 0) (failing 1 (running .running))).station 0).queue = [.stopSegment 9] ∧
    ((after (.pollMiss 0) (failing 1 (running .stopping))).station 0).queue = [] ∧
    (failing 1 (running .running)).HeldBy 1 0 dock ∧ tester.Unoccupied := by
  refine ⟨by decide +kernel, by decide +kernel, by decide +kernel, by decide +kernel, by decide +kernel, by decide +kernel,
    ⟨by decide +kernel, by decide +kernel, ?_⟩, by decide +kernel⟩
  have h : ∀ x : CellNo, x = 0 ∨ ((failing 1 (running .running)).cell x).dock = none := by decide +kernel
  intro x e he _
  rcases h x with h | h
  · exact h
  · simp [h] at he

/-- For JoinsAreDecided. -/
theorem witness_joins :
    (let s := polled 1 { undocked with stations := undocked.stations.set 1 (Station.enrol .tester) }
     s.isDocked 1 = false ∧
     (after (.answerTaken 0 (answerBytes 2 3 [1, 2, 0x12, 0x34, 0, 7])) s).station 1 =
       { online .tester with model := some 0x1234, firmware := some 7, freshAck := true, alarm := true } ∧
     news (after (.answerTaken 0 (answerBytes 2 3 [1, 2, 0x12, 0x34, 0, 7])) s) = [.stationOnline] ∧
     (after (.answerTaken 0 (answerBytes 2 0 [1, 1, 0x12, 0x34, 0, 7])) s).station 1 = Station.reset ∧
     news (after (.answerTaken 0 (answerBytes 2 0 [1, 1, 0x12, 0x34, 0, 7])) s) = [.enrollFailed] ∧
     (after (.answerTaken 0 (answerBytes 2 1 [])) s).station 1 = { Station.enrol .tester with freshAck := true }) := by
  decide +kernel

/-- R19: a trunk after an answer: with an address still to poll, at the end of a round, and without an enrolled place; and another
trunk, which pauses. For JoinsAreDecided, OnlineAnswersAreTaken and every other statement about answers. -/
theorem witness_trunks_settle :
    (let s := polled 0 (undocked.setTrunk 2 { position := none, outstanding := none, gap := some 3 })
     (told 0 0 [] s).trunk 0 = { position := some 0, outstanding := none, gap := none } ∧
       (told 0 0 [] s).trunk 2 = { position := none, outstanding := none, gap := some 3 }) ∧
    (told 1 0 [] (polled 1 undocked)).trunk 0 = { position := none, outstanding := none, gap := some 10 } ∧
    (let s := polled 1 { undocked with stations := State.reset.stations.set 1 (Station.enrol .tester) }
     (told 1 0 [1, 1, 0, 0, 0, 0] s).trunk 0 = { position := none, outstanding := none, gap := none }) := by decide +kernel

/-- For OnlineAnswersAreTaken. -/
theorem witness_online_answers :
    (let s := polled 0 { undocked with stations := undocked.stations.set 0 { online .handler with misses := 2 } }
     (after (.answerTaken 0 (answerBytes 1 2 [])) s).station 0 = { online .handler with alarm := true } ∧
     news (after (.answerTaken 0 (answerBytes 1 2 [])) s) = [] ∧
     (after (.answerTaken 0 (answerBytes 1 1 [])) s).station 0 = { online .handler with freshAck := true } ∧
     news (after (.answerTaken 0 (answerBytes 1 1 [])) s) = [.stationRestart]) ∧
    (let s := polled 1 undocked
     (((after (.answerTaken 0 (answerBytes 2 1 [])) s).tester 1).slot 0).state = .stale ∧
       news (after (.answerTaken 0 (answerBytes 2 1 [])) s) = [.stationRestart]) := by decide +kernel

/-- The hypotheses on the poll and the cell that the statements of answers share. -/
theorem witness_polled : (polled 0 bench).Polled 0 0 ∧ (polled 0 bench).HandlerOf 0 0 dock := by
  refine ⟨⟨rfl, _, rfl, rfl, rfl⟩, by decide +kernel, rfl, ?_⟩
  have h : ∀ x : CellNo, x = 0 ∨ ((polled 0 bench).cell x).dock = none := by decide +kernel
  intro x e he _
  rcases h x with h | h
  · exact h
  · simp [h] at he

/-- A preparation that awaits its setpoint command 3. -/
def settingUp : Prep :=
  { setpointDone := false, programDone := false, soakStart := none, soakDeadline := none, setpointCommand := some 3 }

/-- The floor with its cell in PREPARING under a preparation record. -/
def preparing (q : Prep) (f : Cell → Cell := id) : State :=
  atWork .preparing .assigned fun x => f { x with prep := some q }

/-- Returns from LOST, and the ends of a STOP, a SET SETPOINT and a START INSERTION. For OnlineAnswersAreTaken. -/
theorem witness_returns_and_ends :
    (let s := polled 0 { undocked with stations := undocked.stations.set 0 { online .handler with state := .lost, misses := 3 } }
     news (told 0 0 [] s) = [.stationOnline] ∧ (told 0 0 [] s).station 0 = online .handler ∧
       news (told 0 1 [] s) = [.stationOnline, .stationRestart]) ∧
    (let s := inFlight 0 (.stopSegment 9) bench
     answersTo 0 0 [] s s = true ∧ answersTo 0 4 [] s (landed 0 s) = true ∧ answersTo 0 12 [] s (landed 0 s) = true) ∧
    (let s := inFlight 0 (.setSetpoint 3 300) (preparing settingUp)
     answersTo 0 4 [] s ((landed 0 s).modCell 0 fun x =>
       { x with commanded := some 300, prep := some { settingUp with setpointDone := true } }) = true) ∧
    (let s := inFlight 0 (.startInsertion 9 5 1 100) (preparing settingUp fun x => { x with insertion := some 9 })
     news (told 0 4 [] s) = [.insertionStarted] ∧ ((told 0 4 [] s).cell 0).state = .running ∧
       ((told 0 4 [] s).lot? 5).map (fun l => (l.state, l.current.map fun r => (r.outcome, r.number, r.segments))) =
         some (.running, some (.running, some 9, 1))) := by decide +kernel

/-- The failed ends of a SET SETPOINT and a START INSERTION, the done ends of earlier ones, and the setpoint commanded again. For
OnlineAnswersAreTaken. -/
theorem witness_other_handler_ends :
    (let v := told 0 8 [] (inFlight 0 (.setSetpoint 3 300) (preparing settingUp))
     v.events.getLast?.map (fun e => (e.kind, e.detail)) = some (.assignmentCancelled, [0, 1, 4]) ∧
       v.cell 0 = { bay with commanded := none, dock := some { dock with recovery := 300 } }) ∧
    (let v := told 0 4 [] (inFlight 0 (.setSetpoint 2 300) (preparing { settingUp with setpointDone := true }))
     (v.cell 0).commanded = some 300 ∧ (v.cell 0).prep = some { settingUp with setpointCommand := some 0 } ∧
       (v.station 0).queue = [.setSetpoint 0 250]) ∧
    (let s := inFlight 0 (.setSetpoint 2 300) (preparing settingUp)
     answersTo 0 4 [] s ((landed 0 s).modCell 0 fun x => { x with commanded := some 300 }) = true) ∧
    (let s := inFlight 0 (.startInsertion 9 5 1 100) (preparing settingUp fun x => { x with insertion := some 9 })
     (told 0 8 [] s).events.getLast?.map (fun e => (e.kind, e.detail)) = some (.assignmentCancelled, [0, 1, 5]) ∧
       ((told 0 8 [] s).station 0).queue = []) ∧
    (let s := inFlight 0 (.startInsertion 8 5 1 100) bench
     answersTo 0 4 [] s ((landed 0 s).modStation 0 fun x => { x with queue := [.stopSegment 8] }) = true) := by decide +kernel

/-- R94: a docked place returns or joins, with the other place ONLINE and not. For OnlineAnswersAreTaken. -/
theorem witness_docked_returns :
    (let f := bench.setCell 0 { bay with state := .faulted }
     let s := polled 0 (f.modStation 0 fun x => { x with state := .lost, misses := 3 })
     news (told 0 0 [] s) = [.stationOnline, .cellIdle] ∧
       (told 0 0 [] s).cell 0 = { bay with dock := some { dock with recovery := 300 } } ∧
       (let s := s.modStation 1 fun x => { x with state := .lost }
        news (told 0 0 [] s) = [.stationOnline] ∧ ((told 0 0 [] s).cell 0).state = .faulted)) ∧
    (let f := bench.setCell 0 { bay with state := .faulted }
     let s := polled 1 (f.setStation 1 (Station.enrol .tester))
     news (told 1 0 [1, 2, 0, 1, 0, 2] s) = [.stationOnline, .cellIdle] ∧
       (told 1 0 [1, 2, 0, 1, 0, 2] s).station 1 = { online .tester with model := some 1, firmware := some 2 }) ∧
    (let s := polled 0 (bench.modStation 0 fun x => { x with state := .lost })
     news (told 0 0 [] s) = [.stationOnline] ∧ (told 0 0 [] s).cell 0 = bay) := by decide +kernel

/-- R95, R114: the restart of the handler and of the tester of a docked cell. For OnlineAnswersAreTaken. -/
theorem witness_docked_restarts :
    (let v := told 0 1 [] (polled 0 bench)
     news v = [.stationRestart] ∧ v.cell 0 = { bay with commanded := none }) ∧
    (let v := told 0 1 [] (polled 0 (atWork .preparing .assigned))
     (v.events.drop 1).map (fun e => (e.kind, e.detail)) = [(.stationRestart, [1, 0]), (.assignmentCancelled, [0, 1, 9])] ∧
       v.cell 0 = { bay with commanded := none }) ∧
    (let v := told 0 1 [] (polled 0 (running .running))
     news v = [.stationRestart, .finding, .holdRaised, .insertionClosed] ∧ (v.cell 0).state = .idle ∧
       v.events.getLast?.map (fun e => e.detail.take 3) = some [1, 2, 5]) ∧
    (let v := told 1 1 [] (polled 1 (atWork .setup .assigned))
     (v.events.drop 1).map (fun e => (e.kind, e.detail)) = [(.stationRestart, [2, 0]), (.assignmentCancelled, [0, 1, 11])] ∧
       ((v.tester 1).slot 0).state = .stale) ∧
    (let v := told 1 1 [] (polled 1 (running .running))
     news v = [.stationRestart, .finding, .holdRaised] ∧ (v.cell 0).state = .stopping ∧
       (v.station 0).queue = [.stopSegment 9] ∧
       (v.lot? 5).map (fun l => (l.state, l.holds.map fun h => h.cause)) = some (.running, [.programMismatch])) ∧
    (let v := told 1 1 [] (polled 1 (running .stopping))
     news v = [.stationRestart] ∧ (v.cell 0).state = .stopping) := by decide +kernel

/-- For DeadlinesExpire. -/
theorem witness_deadlines :
    (let f : InFlight := { command := .stopSegment 9, sentAt := 0 - 20, deadline := come }
     let s := withStation 0 { online .handler with inFlight := some f }
     come.span ≤ elapsed s.tick come.start ∧
     after (.commandDeadlineExpiry 0) s =
       withStation 0 { online .handler with lateEnd := some { start := 0, span := 50 } }) ∧
    after (.lateEndWaitExpiry 0) (withStation 0 { online .handler with lateEnd := some come }) = bench := by decide +kernel

/-- The state after the deadline of a command in flight at a place has come. -/
def overdue (p : Place) (c : Command) (s : State) : State :=
  after (.commandDeadlineExpiry p)
    (s.modStation p fun x => { x with inFlight := some { command := c, sentAt := come.start, deadline := come } })

/-- The details of the events after RESET_DONE. -/
def details (s : State) : List (List Byte) := (s.events.drop 1).map fun e => e.detail

/-- R85: a SET SETPOINT that ends TIMEOUT: the preparation's own, an earlier one without and with setpoint done, with its offer taken
and failing at once, outside PREPARING, and at a place that no cell holds. For DeadlinesExpire. -/
theorem witness_setpoint_timeouts :
    (let v := overdue 0 (.setSetpoint 3 300) (preparing settingUp)
     news v = [.assignmentCancelled] ∧ details v = [[0, 1, 4]] ∧
       v.cell 0 = { bay with commanded := none, dock := some { dock with recovery := 300 } }) ∧
    ((overdue 0 (.setSetpoint 2 300) (preparing settingUp)).cell 0 = { (preparing settingUp).cell 0 with commanded := none }) ∧
    (let v := overdue 0 (.setSetpoint 2 300) (preparing { settingUp with setpointDone := true, soakStart := some 0 })
     (v.cell 0).prep = some { settingUp with setpointCommand := some 0 } ∧ (v.station 0).queue = [.setSetpoint 0 250]) ∧
    (let s := (preparing { settingUp with setpointDone := true }).modStation 0 fun x => { x with queue := [.setSetpoint 7 1] }
     details (overdue 0 (.setSetpoint 2 300) s) = [[0, 1, 4]]) ∧
    (overdue 0 (.setSetpoint 3 300) bench).cell 0 = { bay with commanded := none } ∧
    (overdue 0 (.setSetpoint 3 300) undocked).cells = undocked.cells := by decide +kernel

/-- R89, R39: a START INSERTION that ends TIMEOUT, and a pass-through command, which the reply awaits or not. For DeadlinesExpire. -/
theorem witness_start_and_pass_timeouts :
    (let s := preparing settingUp fun x => { x with insertion := some 9 }
     let v := overdue 0 (.startInsertion 9 5 1 100) s
     details v = [[0, 1, 5]] ∧ (v.station 0).queue = [.stopSegment 9] ∧
       (v.cell 0).dock = some { dock with recovery := 300 } ∧
       (overdue 0 (.startInsertion 8 5 1 100) s).cells = s.cells) ∧
    (let s := servingOf (.stationPass 6 3 0 0 [1]) (some 0) bench
     said (overdue 0 (.pass [1]) s) = some [18] ∧ (overdue 0 (.pass [1]) s).serving = none ∧
       (overdue 1 (.pass [1]) s).replies = [] ∧ (overdue 1 (.pass [1]) s).serving = s.serving) := by decide +kernel

/-- For EnrollStation. -/
theorem witness_enrol :
    said (after (.enrollStation 1 3 8 2) bench) = some [0, 31] ∧ said (after (.enrollStation 1 4 8 2) bench) = some [5] ∧
    said (after (.enrollStation 1 0 0 2) bench) = some [5] ∧ said (after (.enrollStation 1 0 9 2) bench) = some [5] ∧
    said (after (.enrollStation 1 0 3 3) bench) = some [5] ∧ said (after (.enrollStation 1 0 1 1) bench) = some [7] ∧
    (after (.enrollStation 1 3 8 2) bench).station 31 = Station.enrol .tester := by decide +kernel

/-- For RetireStation. -/
theorem witness_retire :
    bench.SingleAlias 1 0 ∧ said (after (.retireStation 1 1) bench) = some [12] ∧
    said (after (.retireStation 1 4) bench) = some [31] ∧
    said (after (.retireStation 1 2) undocked) = some [0] ∧ (after (.retireStation 1 2) undocked).station 1 = Station.reset ∧
    (((after (.retireStation 1 2) undocked).tester 1).slot 0).state = .stale ∧
    ((after (.retireStation 1 2) (polled 1 undocked)).trunk 0).outstanding.map (fun o => o.abandoned) = some true ∧
    ((after (.retireStation 1 2) (polled 0 undocked)).trunk 0).outstanding.map (fun o => o.abandoned) = some false ∧
    said (after (.retireStation 1 2)
      { undocked with testers := undocked.testers.set 1 { tester with opState := .loading } }) = some [12] := by
  refine ⟨⟨{ number := 1, members := [0], answering := 0 }, ?_, rfl⟩, ?_⟩ <;> decide +kernel

/-- For AliasesAreDefined. -/
theorem witness_names :
    said (after (.defineAlias 1 2 1 [1, 2]) bench) = some [12] ∧ said (after (.defineAlias 1 2 1 [1]) bench) = some [0] ∧
    said (after (.defineAlias 1 254 31 [31, 30, 29, 28]) bench) = some [0] ∧
    ((after (.defineAlias 1 254 31 [31, 30, 29, 28]) bench).alias? 254).map (fun e => e.members) = some [31, 30, 29, 28] ∧
    said (after (.defineAlias 1 30 0 [0]) { bench with
      aliases := (List.range 24).map fun k => { number := BitVec.ofNat 8 (k + 1), members := [0], answering := 0 } }) =
      some [8] ∧
    (∀ i ∈ ([.defineAlias 1 0 0 [0], .defineAlias 1 255 0 [0], .defineAlias 1 9 0 [], .defineAlias 1 9 0 [0, 1, 2, 3, 4],
        .defineAlias 1 9 32 [32], .defineAlias 1 9 0 [0, 0], .defineAlias 1 9 1 [0]] : List Instr),
      said (after i bench) = some [5]) ∧
    said (after (.deleteAlias 1 2) bench) = some [12] ∧ said (after (.deleteAlias 1 3) bench) = some [0] ∧
    ((after (.deleteAlias 1 3) bench).alias? 3) = none := by decide +kernel

/-- For AliasesAndStationsAreRead. -/
theorem witness_names_read :
    said (after (.readAlias 1 0) bench) = some [0, 4, 1, 2, 3, 4] ∧ said (after (.readAlias 1 255) bench) = some [5] ∧
    said (after (.readAlias 1 3) bench) = some [0, 2, 0, 0, 1, 2, 2] ∧
    (said (after (.readStation 1 1) bench)).map (fun p => p.take 14) =
      some [0, 1, 0, 2, 1, 0, 0, 0, 0, 0, 0, 0, 0, 0] ∧
    said (after (.readStation 1 4) bench) = some ([0, 1, 9] ++ List.replicate 18 0) := by decide +kernel

/-- For StationPass. -/
theorem witness_pass :
    said (after (.stationPass 1 3 0 0 []) bench) = some [5] ∧
    said (after (.stationPass 1 3 0 0 (List.replicate 49 0)) bench) = some [5] ∧
    said (after (.stationPass 1 0 0 1 [1]) bench) = some [6] ∧
    said (after (.stationPass 1 4 0 0 [1]) bench) = some [13] ∧
    said (after (.stationPass 1 3 0 0 [1]) (withStation 1 (Station.enrol .tester))) = some [14] ∧
    said (after (.stationPass 1 3 0 0 [1]) (withStation 1 { online .tester with queue := [.pass [2]] })) = some [17] ∧
    (after (.stationPass 1 3 0 0 [1]) bench).serving =
      some { request := .stationPass 1 3 0 0 [1], deferred := some 0 } ∧
    ((after (.stationPass 1 3 0 0 [1]) bench).station 1).queue = [.pass [1]] ∧
    ((after (.stationPass 1 0 0 1 (List.replicate 48 0)) { bench with policy := { bench.policy with openPass := true } }).station
      0).queue = [.pass (List.replicate 48 0)] ∧
    (let s := { bench with policy := { bench.policy with openPass := true } }
     said (after (.stationPass 1 255 0 1 [1]) s) = some [5] ∧ said (after (.stationPass 1 0 4 1 [1]) s) = some [5] ∧
     said (after (.stationPass 1 0 0 0 [1]) s) = some [5] ∧ said (after (.stationPass 1 0 0 9 [1]) s) = some [5] ∧
     said (after (.stationPass 1 9 0 1 [1]) s) = some [6]) ∧
    (let s := servingOf (.stationPass 6 3 0 0 [1]) (some 0) (inFlight 0 (.pass [1]) bench)
     answersTo 0 4 [0x3F, 7, 8] s ({ landed 0 s with serving := none }.replied 0x96 6 [0, 0, 4, 2, 7, 8]) = true ∧
     answersTo 0 8 [] s ({ landed 0 s with serving := none }.replied 0x96 6 [18]) = true) := by decide +kernel

/-! ### Chapters 3 and 4 -/

/-- The floor with its product changed. -/
def withProduct (f : Product → Product) : State := { bench with catalog := [f product] }

def fullCatalog : State :=
  { bench with catalog := (List.range 16).map fun k => { product with number := BitVec.ofNat 16 (k + 1) } }

/-- For StageProduct. -/
theorem witness_stage :
    said (after (.stageProduct 1 (rawVersion 0)) bench) = some [5] ∧
    said (after (.stageProduct 1 (rawVersion 5)) bench) = some [5] ∧
    said (after (.stageProduct 1 { rawVersion 1 with product := 0 }) bench) = some [5] ∧
    said (after (.stageProduct 1 { rawVersion 1 with good := Vector.replicate 16 0 }) bench) = some [5] ∧
    said (after (.stageProduct 1 { rawVersion 1 with steps := [{ rawStep with programId := 4096 }] }) bench) = some [5] ∧
    said (after (.stageProduct 1 { rawVersion 4 with product := 17 }) fullCatalog) = some [8] := by decide +kernel

/-- The shift, the last margin and the steps' setpoints and windows of the version staged for product 7. -/
def stagedFacts (s : State) : Option (List Int) :=
  (s.product? 7).bind fun e => e.staged.map fun v =>
    [Int.ofNat v.shift, Int.ofNat v.margins[3]] ++ v.steps.flatMap fun x => [x.setpoint, Int.ofNat x.window]

/-- For StageProduct. -/
theorem witness_stage_copies :
    ((after (.stageProduct 1 (rawVersion 4)) bench).product? 7).map (fun e => (e.active.isSome, e.staged.isSome, e.revision)) =
      some (true, true, 1) ∧
    ((after (.stageProduct 1 { rawVersion 1 with product := 9 }) bench).product? 9).map (fun e => (e.revision, e.baselines)) =
      some (0, []) ∧
    stagedFacts (after (.stageProduct 1 { rawVersion 1 with steps := [{ rawStep with setpoint := 0 - 551, window := 4 }] }) bench) =
      some [1, 65536, -550, 5] := by decide +kernel

/-- For ActivateProduct. -/
theorem witness_activate :
    said (after (.activateProduct 1 7) bench) = some [9] ∧
    said (after (.activateProduct 1 7) (withProduct fun e => { e with staged := some version, revision := 65535 })) = some [5] ∧
    (let three := { version with steps := [route 0, { route 0 with program := { prog with check := 8 } }, route 0] }
     let learned : Baseline := { values := Vector.replicate 16 4, count := 3 }
     let s := withProduct fun e => { e with staged := some three, revision := 65534, baselines := [learned, learned] }
     said (after (.activateProduct 1 7) s) = some [0, 255, 255, 3, 0, 1, 2] ∧
       ((after (.activateProduct 1 7) s).product? 7).map (fun e => e.baselines) =
         some [learned, Baseline.zero, Baseline.zero]) := by decide +kernel

/-- For ProductsAreDropped. -/
theorem witness_drop :
    said (after (.discardStaged 1 7) bench) = some [31] ∧
    said (after (.discardStaged 1 7) (withProduct fun e => { e with staged := some version })) = some [0, 0] ∧
    said (after (.discardStaged 1 7) (withProduct fun e => { e with staged := some version, active := none })) = some [0, 1] ∧
    (after (.discardStaged 1 7) (withProduct fun e => { e with staged := some version, active := none })).catalog = [] ∧
    said (after (.deleteProduct 1 7) bench) = some [12] ∧
    said (after (.deleteProduct 1 7) (withLot fun l => { l with state := .shipped })) = some [0] ∧
    (after (.deleteProduct 1 7) (withLot fun l => { l with state := .shipped })).catalog = [] := by decide +kernel

/-- For SetBaseline and ProductsAreRead. -/
theorem witness_baseline :
    said (after (.setBaseline 1 7 1 256 (Vector.replicate 16 65537)) (withProduct fun e => { e with active := none })) =
      some [9] ∧
    said (after (.setBaseline 1 7 0 256 (Vector.replicate 16 65537)) bench) = some [5] ∧
    said (after (.setBaseline 1 7 3 256 (Vector.replicate 16 65537)) bench) = some [5] ∧
    ((after (.setBaseline 1 7 2 256 (Vector.replicate 16 65537)) bench).product? 7).map (fun e => e.baselines) =
      some [Baseline.zero, { values := Vector.replicate 16 65536, count := 255 }] ∧
    said (after (.readBaseline 1 7 2) bench) = some ([0, 0, 1, 0, 0] ++ List.replicate 64 0) ∧
    said (after (.readBaseline 1 7 0) bench) = some [5] ∧ said (after (.readBaseline 1 7 3) bench) = some [5] ∧
    said (after (.readBaseline 1 7 9) (withProduct fun e => { e with active := none })) = some [9] ∧
    said (after (.readProduct 1 0 9) bench) = some [0, 1, 0, 7, 0, 1, 1, 0, 1] ∧
    said (after (.readProduct 1 7 2) bench) = some [5] ∧ said (after (.readProduct 1 7 1) bench) = some [9] ∧
    (said (after (.readProduct 1 7 0) bench)).map (fun p => p.take 8) = some [0, 0, 1, 1, 0, 0, 7, 2] := by decide +kernel

/-- For CreateLot. -/
theorem witness_create :
    said (after (.createLot 1 0 7 1 0 0) bench) = some [5] ∧ said (after (.createLot 1 5 7 1 0 0) bench) = some [7] ∧
    said (after (.createLot 1 6 0 1 0 0) bench) = some [5] ∧ said (after (.createLot 1 6 8 1 0 0) bench) = some [6] ∧
    said (after (.createLot 1 6 7 1 0 0) (withProduct fun e => { e with active := none })) = some [9] ∧
    said (after (.createLot 1 6 7 0 0 0) bench) = some [5] ∧ said (after (.createLot 1 6 7 250001 0 0) bench) = some [5] ∧
    said (after (.createLot 1 70 7 1 0 0)
      { bench with lots := (List.range 64).map fun k => { lot with number := BitVec.ofNat 32 (k + 1) } }) = some [8] ∧
    said (after (.createLot 1 6 7 250000 4 0) bench) = some [0, 0, 1, 2, 3, 0, 0, 0, 2] ∧
    (after (.createLot 1 6 7 1 4 0) bench).dispatchQueue = [5, 6] ∧
    ((after (.createLot 1 6 7 1 4 0) bench).lot? 6).map (fun l => l.records) = some [Insertion.new (some 1), Insertion.new none] := by
  decide +kernel

/-- For PriorityAndPurge. -/
theorem witness_priority_purge :
    bench.HasLot 5 lot ∧ said (after (.setPriority 1 5 4) bench) = some [0, 3] ∧ said (after (.purgeLot 1 5) bench) = some [9] ∧
    said (after (.setPriority 1 5 4) (withLot fun l => { l with state := .complete })) = some [9] ∧
    said (after (.purgeLot 1 5) (withLot fun l => { l with state := .scrapped })) = some [0] ∧
    (after (.purgeLot 1 5) (withLot fun l => { l with state := .shipped })).lots = [] := by decide +kernel

/-- For LotsAreRead. -/
theorem witness_lots_read :
    (said (after (.readLot 1 5 0) bench)).map (fun p => p.take 21) =
      some [0, 0, 0, 0, 5, 0, 7, 0, 1, 1, 2, 0, 0, 0, 100, 2, 0, 1, 1, 0, 0] ∧
    (said (after (.readLot 1 5 1) bench)).map (fun p => p.take 6) = some [0, 0, 1, 0, 7, 2] ∧
    said (after (.readLot 1 5 2) bench) = some [5] ∧ said (after (.listLots 1 9 0) bench) = some [5] ∧
    said (after (.listLots 1 1 0) bench) = some [0, 1, 0, 1, 0, 0, 0, 5] ∧
    said (after (.listLots 1 8 0) bench) = some [0, 0, 0, 0] ∧ said (after (.listLots 1 0 1) bench) = some [0, 1, 1, 0] := by
  decide +kernel

/-- For NumbersResolve. -/
theorem witness_numbers :
    (∀ i ∈ ([.eraseSlot 1 9 8, .verifySlot 1 2 8, .qualifySlot 1 2 255] : List Instr), said (after i bench) = some [5]) ∧
    said (after (.eraseSlot 1 255 0) bench) = some [5] ∧ said (after (.retireStation 1 9) bench) = some [6] ∧
    said (after (.verifySlot 1 3 7) bench) = some [16] ∧ said (after (.purgeTester 1 4) bench) = some [13] ∧
    said (after (.readTester 1 1) bench) = some [15] ∧ said (after (.deleteAlias 1 0) bench) = some [5] ∧
    said (after (.readAlias 1 9) bench) = some [6] ∧ said (after (.activateProduct 1 0) bench) = some [5] ∧
    said (after (.readBaseline 1 8 1) bench) = some [6] ∧ said (after (.readProduct 1 8 1) bench) = some [6] ∧
    said (after (.holdLot 1 0) bench) = some [5] ∧ said (after (.shipConfirm 1 6) bench) = some [6] := by decide +kernel

/-! ### Chapters 5 and 6 -/

/-- For CellsAreDocked. -/
theorem witness_dock :
    undocked.SingleAlias 1 0 ∧ undocked.SingleAlias 2 1 ∧
    said (after (.dockCell 1 0 1 2) bench) = some [7] ∧ said (after (.dockCell 1 15 1 2) bench) = some [12] ∧
    said (after (.dockCell 1 15 4 2) undocked) = some [13] ∧ said (after (.dockCell 1 15 2 1) undocked) = some [15] ∧
    said (after (.dockCell 1 15 1 2) undocked) = some [0, 1] ∧ news (after (.dockCell 1 15 1 2) undocked) = [.cellIdle] ∧
    (let s := { undocked with stations := undocked.stations.set 1 (Station.enrol .tester) }
     said (after (.dockCell 1 15 1 2) s) = some [0, 6] ∧ news (after (.dockCell 1 15 1 2) s) = [.cellFaulted]) ∧
    said (after (.dockCell 1 15 0 2) undocked) = some [5] ∧ said (after (.dockCell 1 15 1 255) undocked) = some [5] ∧
    said (after (.dockCell 1 15 9 0) undocked) = some [6] ∧ said (after (.dockCell 1 15 3 0) undocked) = some [16] ∧
    said (after (.dockCell 1 15 1 3) undocked) = some [16] ∧
    said (after (.undockCell 1 0) bench) = some [0] ∧ (after (.undockCell 1 0) bench).cell 0 = Cell.reset ∧
    said (after (.undockCell 1 1) bench) = some [9] := by
  refine ⟨⟨{ number := 1, members := [0], answering := 0 }, ?_, rfl⟩, ⟨{ number := 2, members := [1], answering := 1 }, ?_, rfl⟩, ?_⟩ <;>
    decide +kernel

/-- For AssignmentsAreCancelled. -/
theorem witness_cancel :
    (let s := atWork .preparing .assigned
     (s.cell 0).work = some { lot := 5, step := 1 } ∧ said (after (.cancelAssignment 1 5) s) = some [0, 0, 1] ∧
       news (after (.cancelAssignment 1 5) s) = [.assignmentCancelled] ∧ (after (.cancelAssignment 1 5) s).dispatchQueue = [5] ∧
       (after (.resetCell 1 0) s).cell 0 = bay) ∧
    (let s := atWork .setup .assigned fun x => { x with phaseDeadline := some come }
     news (after (.setupExpired 0) s) = [.setupExpired, .assignmentCancelled] ∧ (after (.setupExpired 0) s).cell 0 = bay) ∧
    said (after (.resetCell 1 0) bench) = some [0] ∧ said (after (.resetCell 1 15) bench) = some [9] ∧
    said (after (.resetCell 1 0) (bench.setCell 0 { bay with state := .faulted })) = some [9] ∧
    said (after (.cancelAssignment 1 5) bench) = some [9] ∧ said (after (.cancelAssignment 1 5) (running .running)) = some [9] ∧
    (let s := polled 0 (preparing settingUp)
     (told 0 0 [0x11, 4] s).cell 0 = { bay with dock := some { dock with kit := 4 } } ∧
       news (told 0 0 [0x11, 4] s) = [.assignmentCancelled]) ∧
    (let s := inFlight 0 (.setSetpoint 3 300) (preparing settingUp)
     (told 0 8 [] s).cell 0 = { bay with commanded := none, dock := some { dock with recovery := 300 } }) ∧
    (let s := inFlight 0 (.startInsertion 9 5 1 100) (preparing settingUp fun x => { x with insertion := some 9 })
     (told 0 8 [] s).cell 0 = { bay with dock := some { dock with recovery := 300 } } ∧
       (told 0 8 [] s).dispatchQueue = [5]) := by decide +kernel

/-- For SegmentsAreCutOff. -/
theorem witness_cut_off :
    (let s := running .stopping fun x => { x with phaseDeadline := some come }
     news (after (.stopExpired 0) s) = [.stopExpired, .finding, .holdRaised, .insertionClosed] ∧
       (after (.stopExpired 0) s).cell 0 = { bay with dock := some { dock with recovery := 300 } } ∧
       ((after (.stopExpired 0) s).lot? 5).map (fun l => (l.state, l.holds.map fun h => h.cause)) =
         some (.waiting, [.cellFault])) ∧
    (let s := running .running
     news (after (.resetCell 1 0) s) = [.finding, .holdRaised, .insertionClosed] ∧
       said (after (.resetCell 1 0) s) = some [0]) ∧
    (let s := polled 0 (running .stopping)
     news (told 0 0 [0x15, 0, 9, 255, 1] s) = [.insertionClosed] ∧ (told 0 0 [0x15, 0, 9, 255, 1] s).cell 0 = bay ∧
       (told 0 0 [0x15, 0, 9, 255, 1] s).dispatchQueue = [5] ∧
       news (told 0 0 [0x15, 0, 9, 2, 1] s) = [.finding, .holdRaised, .insertionClosed]) := by decide +kernel

/-- For TimersAreTaken. -/
theorem witness_timers :
    (after (.recoveryTimerExpiry 0) { (bench.setCell 0 { bay with recoveryDue := true }) with evalPending := false }).evalPending =
      true ∧
    after .agePromotion { bench with ageDue := true } = bench ∧
    (let prep : Prep := { setpointDone := true, programDone := true, soakStart := some 0
                          soakDeadline := some { deadline := come, expired := false }, setpointCommand := none }
     let s := atWork .preparing .assigned fun x => { x with prep := some prep }
     ((after (.soakDeadlineExpiry 0) s).station 0).queue = [.startInsertion 1 5 1 100] ∧
       (after (.soakDeadlineExpiry 0) s).nextInsertion = 2 ∧
       (after (.soakDeadlineExpiry 0) { s with nextInsertion := 65535 }).nextInsertion = 1 ∧
     (let s := atWork .preparing .assigned fun x => { x with prep := some { prep with programDone := false } }
      ((after (.soakDeadlineExpiry 0) s).station 0).queue = [])) := by decide +kernel

/-- TEMP at the edge of the window and past it, and KIT in SETUP. For TimersAreTaken. -/
theorem witness_temperatures_and_kits :
    (let s := polled 0 bench
     ((told 0 0 ([0x12] ++ i16 2001) s).cell 0).lastTemp = some (2000, 0) ∧
       ((told 0 0 ([0x12] ++ i16 (0 - 601)) s).cell 0).lastTemp = some (-600, 0)) ∧
    (let q := { settingUp with setpointDone := true }
     let soaking := { q with soakStart := some 0, soakDeadline := some { deadline := { start := 0, span := 10 }, expired := false } }
     ((told 0 0 ([0x12] ++ i16 200) (polled 0 (preparing q))).cell 0).prep = some soaking ∧
     ((told 0 0 ([0x12] ++ i16 199) (polled 0 (preparing soaking))).cell 0).prep = some q ∧
     ((told 0 0 ([0x12] ++ i16 300) (polled 0 (preparing soaking))).cell 0).prep = some soaking) ∧
    (let s := polled 0 (atWork .setup .assigned)
     ((told 0 0 [0x11, 4] s).cell 0).state = .setup ∧ ((told 0 0 [0x11, 3] s).cell 0).state = .preparing ∧
       ((told 0 0 [0x11, 3] s).station 1).queue = [.slotCommand .select 0 0 0]) := by decide +kernel

/-- R82: the alarm flag in an answer of the handler, in PREPARING before the start and after it, and in IDLE. For TimersAreTaken. -/
theorem witness_alarm :
    (let q := { settingUp with
       setpointDone := true, soakStart := some 0, soakDeadline := some { deadline := { start := 0, span := 10 }, expired := false } }
     (told 0 2 [] (polled 0 (preparing q))).cell 0 =
       { bay with state := .preparing, work := some { lot := 5, step := 1 }, dock := some { dock with recovery := 300 }
                  prep := some { settingUp with setpointDone := true } } ∧
     ((told 0 2 [] (polled 0 (preparing q fun x => { x with insertion := some 9 }))).cell 0).prep = some q) ∧
    (told 0 2 [] (polled 0 bench)).cell 0 = { bay with dock := some { dock with recovery := 300 } } ∧
    ((told 0 2 [] (polled 0 bench)).station 0).alarm = true ∧ news (told 0 2 [] (polled 0 bench)) = [] := by decide +kernel

/-- The floor with its tester changed. -/
def withTester (f : Tester → Tester) : State := bench.setTester 1 (f tester)

/-- For LoadProgram. -/
theorem witness_load :
    said (after (.loadProgram 1 2 7 4095 1 3) bench) = some [1, 1, 1] ∧
    ((after (.loadProgram 1 2 7 4095 1 3) bench).station 1).queue = [.slotCommand .load 7 4095 1] ∧
    (((after (.loadProgram 1 2 7 4095 1 3) bench).tester 1).slot 7).state = .loading ∧
    said (after (.loadProgram 1 2 0 4095 1 3) bench) = some [9] := by decide +kernel

/-- The state with an operation of the tester under way on a slot, its command in flight and a poll out to it. -/
def operating (op : TesterOp) (state : OpState) (k : SlotNo) : State :=
  inFlight 1 (.slotCommand op k 5 1) (withTester fun t => { t with
    opState := state, outstanding := some { op := op, slot := k, awaited := true }
    operation := some { slot := k, origin := .host, reported := true, members := 1, expected := prog, erased := 0, handled := none } })

/-- What the end of an operation on slot 7 leaves: the slot's state, the load-error flag and the details of the events. -/
def ended (v : State) : SlotState × Bool × List (List Byte) :=
  (((v.tester 1).slot 7).state, (v.tester 1).loadError, (v.events.drop 1).map fun e => e.detail)

/-- The refusals of a load in their order, and its ends: done, mismatch, no report, failed. For LoadProgram. -/
theorem witness_load_refused_and_ended :
    (∀ i ∈ ([.loadProgram 1 2 8 5 1 3, .loadProgram 1 2 7 0 1 3, .loadProgram 1 2 7 4096 1 3, .loadProgram 1 2 7 5 0 3,
        .loadProgram 1 255 7 5 1 3] : List Instr), said (after i bench) = some [5]) ∧
    said (after (.loadProgram 1 9 7 5 1 3) bench) = some [6] ∧ said (after (.loadProgram 1 4 7 5 1 3) bench) = some [13] ∧
    said (after (.loadProgram 1 2 7 5 1 3) (withStation 1 (Station.enrol .tester))) = some [14] ∧
    said (after (.loadProgram 1 3 7 5 1 3) bench) = some [15] ∧
    said (after (.loadProgram 1 2 7 5 1 3) (withTester fun t => { t with opState := .purging })) = some [19] ∧
    said (after (.loadProgram 1 2 7 5 1 3) (withTester fun t => { t with eraseError := true })) = some [20] ∧
    said (after (.loadProgram 1 2 7 5 1 3) (withTester fun t => { t with protectFloor := 7 })) = some [22] ∧
    said (after (.loadProgram 1 2 0 5 1 3)
      (withTester fun t => { t with slots := t.slots.set 0 { slotOf .verified with locked := true } })) = some [21] ∧
    (let s := operating .load .loading 7
     ended (told 1 4 [0x31, 7, 0, 5, 1, 0, 0, 0, 9] s) = (.verified, false, [[7, 0, 0, 0, 5, 1, 1]]) ∧
     ended (told 1 4 [0x31, 7, 0, 6, 1, 0, 0, 0, 9] s) = (.fault, true, [[7, 1, 0, 0, 5, 1, 1]]) ∧
     ended (told 1 4 [] s) = (.fault, true, [[7, 6, 0, 0, 5, 1, 1]]) ∧
     ended (told 1 8 [] s) = (.fault, true, [[7, 2, 0, 0, 5, 1, 1]])) := by decide +kernel

/-- A LOAD that stands queued on a tester that no cell holds. -/
def loadQueued : State :=
  { withTester fun t => { t with
      opState := .loading, outstanding := some { op := .load, slot := 7, awaited := true }
      operation := some { slot := 7, origin := .host, reported := true, members := 1, expected := prog, erased := 0
                          handled := none } } with
    cells := undocked.cells }.modStation 1 fun x => { x with queue := [.slotCommand .load 7 5 1], misses := 2 }

/-- The restart and the loss of the tester of a queued LOAD. For LoadProgram. -/
theorem witness_load_cut_short :
    (let v := told 1 1 [] (polled 1 loadQueued)
     ended v = (.fault, true, [[2, 0], [7, 5, 0, 0, 5, 1, 1]]) ∧ ((v.tester 1).slot 0).state = .stale ∧
       (v.station 1).queue = [.slotCommand .load 7 5 1] ∧ (v.tester 1).opState = .idle) ∧
    (let v := after (.pollMiss 0) (polled 1 loadQueued)
     ended v = (.fault, true, [[1], [7, 4, 0, 0, 5, 1, 1]]) ∧ (v.station 1).queue = [] ∧ (v.tester 1).outstanding = none) := by
  decide +kernel

/-- For SlotOperationsStart. -/
theorem witness_slot_operations :
    (∃ e, bench.HasAlias 2 e ∧ e.members = [1]) ∧
    said (after (.eraseSlot 1 2 0) (withTester fun t => { t with opState := .loading })) = some [19] ∧
    said (after (.verifySlot 1 2 0) (withTester fun t => { t with next := some { op := .select, slot := 0, afterOp := false } })) =
      some [19] ∧
    said (after (.purgeTester 1 2) (withTester fun t => { t with eraseError := true })) = some [20] ∧
    said (after (.eraseSlot 1 2 0) bench) = some [1] ∧
    ((after (.eraseSlot 1 2 0) bench).station 1).queue = [.slotCommand .erase 0 0 0] ∧
    said (after (.verifySlot 1 2 0) bench) = some [1] ∧
    ((after (.verifySlot 1 2 0) bench).station 1).queue = [.slotCommand .verify 0 0 0] ∧
    ((after (.purgeTester 1 2) bench).station 1).queue = [.slotCommand .erase 0 0 0] ∧
    (let s := withTester fun t => { t with protectFloor := 0 }
     said (after (.purgeTester 1 2) s) = some [1] ∧ news (after (.purgeTester 1 2) s) = [.purgeDone]) := by
  refine ⟨⟨{ number := 2, members := [1], answering := 1 }, ?_, rfl⟩, ?_⟩ <;> decide +kernel

/-- The later refusals. For SlotOperationsStart. -/
theorem witness_slot_operations_refused :
    (let s := withStation 1 (Station.enrol .tester)
     ∀ i ∈ ([.eraseSlot 1 2 0, .verifySlot 1 2 0, .purgeTester 1 2] : List Instr), said (after i s) = some [14]) ∧
    (let s := withTester fun t => { t with protectFloor := 0 }
     said (after (.eraseSlot 1 2 0) s) = some [22] ∧ said (after (.verifySlot 1 2 0) s) = some [22]) ∧
    said (after (.eraseSlot 1 2 7) bench) = some [31] ∧ said (after (.verifySlot 1 2 7) bench) = some [9] ∧
    said (after (.eraseSlot 1 2 0)
      (withTester fun t => { t with slots := t.slots.set 0 { slotOf .stale with locked := true } })) = some [21] ∧
    (let s := (preparing settingUp).modTester 1 fun t => { t with selected := some 0 }
     said (after (.eraseSlot 1 2 0) s) = some [12] ∧ said (after (.verifySlot 1 2 0) s) = some [12]) := by decide +kernel

/-- The ends of an ERASE, a VERIFY and a SELECT. For SlotOperationsStart. -/
theorem witness_slot_operations_end :
    (let s := operating .erase .erasing 0
     ((told 1 4 [] s).tester 1).slot 0 = Slot.reset ∧ news (told 1 4 [] s) = [.eraseResult] ∧
       (((told 1 8 [] s).tester 1).slot 0).state = .fault ∧ ((told 1 8 [] s).tester 1).eraseError = true) ∧
    (let s := operating .verify .verifying 0
     (((told 1 4 [0x31, 0, 0, 5, 1, 0, 0, 0, 9] s).tester 1).slot 0).state = .verified ∧
       (((told 1 8 [] s).tester 1).slot 0).state = .fault ∧ ((told 1 8 [] s).tester 1).loadError = true) ∧
    (let select := Command.slotCommand .select 0 0 0
     let s := inFlight 1 select (withTester fun t => { t with outstanding := some { op := .select, slot := 0, awaited := false } })
     ((told 1 4 [] s).tester 1).selected = some 0 ∧ ((told 1 8 [] s).tester 1) = tester ∧
     (let s := inFlight 1 select ((preparing settingUp).modTester 1 fun t => { t with
        outstanding := some { op := .select, slot := 0, awaited := true }
        readiness := some { cell := 0, program := prog, plan := .select 0, stage := .select } })
      ((told 1 4 [] s).cell 0).prep = some { settingUp with programDone := true } ∧
        news (told 1 8 [] s) = [.assignmentCancelled] ∧ ((told 1 8 [] s).tester 1).loadError = true)) := by decide +kernel

/-- A purge with its first slot, 0, being erased. -/
def purging (f : Tester → Tester) : State :=
  (operating .erase .purging 0).modTester 1 fun t =>
    f { t with operation := t.operation.map fun o => { o with handled := some 0 } }

/-- The steps of a purge: the next slot, the end, and the end at a failure. For SlotOperationsStart. -/
theorem witness_purge_goes_on :
    (let v := told 1 4 [] (purging fun t => { t with slots := t.slots.set 3 (slotOf .stale) })
     (v.station 1).queue = [.slotCommand .erase 3 0 0] ∧ ((v.tester 1).slot 0, ((v.tester 1).slot 3).state) =
       (Slot.reset, .erasing) ∧ (v.tester 1).opState = .purging ∧ news v = []) ∧
    (let v := told 1 4 [] (purging id)
     v.events.getLast?.map (fun e => (e.kind, e.detail)) = some (.purgeDone, [1, 255, 0]) ∧ (v.tester 1).opState = .idle) ∧
    (let v := told 1 8 [] (purging id)
     v.events.getLast?.map (fun e => (e.kind, e.detail)) = some (.purgeDone, [0, 0, 2]) ∧ (v.tester 1).eraseError = true) := by
  decide +kernel

/-- A stage of the readiness plan of cell 0 on slot 7, its command in flight and a poll out to the tester. -/
def staging (op : TesterOp) (state : OpState) (next : Option NextCommand) : State :=
  { (operating op state 7).modTester 1 fun t => { t with
      next := next, operation := t.operation.map fun o => { o with origin := .dispatch }
      readiness := some { cell := 0, program := prog, plan := .load 7, stage := op } } with
    cells := (preparing settingUp).cells, lots := (preparing settingUp).lots, dispatchQueue := [] }

/-- The queue of the tester, its operation state and the new events. -/
def staged (v : State) : List Command × OpState × List EventKind := ((v.station 1).queue, (v.tester 1).opState, news v)

/-- The stages of a readiness plan, a failure, and a plan computed afresh. For SlotOperationsStart. -/
theorem witness_stages :
    staged (told 1 4 [0x31, 7, 0, 5, 1, 0, 0, 0, 9] (staging .load .loading none)) =
      ([.slotCommand .select 7 0 0], .idle, [.loadResult]) ∧
    staged (told 1 4 [0x31, 7, 0, 5, 1, 0, 0, 0, 9] (staging .verify .verifying none)) =
      ([.slotCommand .select 7 0 0], .idle, [.verifyResult]) ∧
    staged (told 1 4 [] (staging .erase .erasing none)) = ([.slotCommand .load 7 5 1], .loading, [.eraseResult]) ∧
    staged (told 1 8 [] (staging .erase .erasing none)) = ([], .idle, [.eraseResult, .assignmentCancelled]) ∧
    (let next := some { op := .load, slot := 5, afterOp := true }
     staged (told 1 8 [] (staging .verify .verifying next)) = ([.slotCommand .select 0 0 0], .idle, [.verifyResult]) ∧
     staged (told 1 8 [] ((staging .verify .verifying next).modTester 1 fun t => { t with slots := Tester.reset.slots })) =
       ([], .idle, [.verifyResult, .assignmentCancelled])) ∧
    (let s := (staging .select .idle (some { op := .verify, slot := 5, afterOp := false })).modTester 1 fun t => { t with
       operation := none, outstanding := some { op := .select, slot := 7, awaited := false } }
     staged (told 1 8 [] s) = ([.slotCommand .verify 5 0 0], .verifying, [])) := by decide +kernel

/-- R99, R103, R105, R106, R110: a LOAD, VERIFY, ERASE and a purge's ERASE that end TIMEOUT. For DeadlinesExpire. -/
theorem witness_operation_timeouts :
    ended (overdue 1 (.slotCommand .load 7 5 1) (operating .load .loading 7)) = (.fault, true, [[7, 3, 0, 0, 5, 1, 1]]) ∧
    ended (overdue 1 (.slotCommand .load 7 5 1) ((operating .load .loading 7).modTester 1 fun t =>
      { t with operation := t.operation.map fun o => { o with reported := false } })) = (.fault, true, []) ∧
    ended (overdue 1 (.slotCommand .verify 7 0 0) (operating .verify .verifying 7)) = (.fault, true, [[7, 3, 0]]) ∧
    (let v := overdue 1 (.slotCommand .erase 0 0 0) (operating .erase .erasing 0)
     details v = [[0, 3, 0, 0]] ∧ (v.tester 1).eraseError = true ∧ ((v.tester 1).slot 0).state = .fault) ∧
    (let v := overdue 1 (.slotCommand .erase 0 0 0) (purging id)
     details v = [[0, 0, 3]] ∧ (v.tester 1).opState = .idle ∧ (v.tester 1).eraseError = true) := by decide +kernel

/-- R98, R107, R112: a SELECT that ends TIMEOUT, awaited and not, and the readiness request of a cell after a TIMEOUT: its own
operation's, and another's for which it waited. For DeadlinesExpire. -/
theorem witness_readiness_timeouts :
    (let select := Command.slotCommand .select 0 0 0
     let awaiting := fun b => fun t : Tester => { t with outstanding := some { op := .select, slot := 0, awaited := b } }
     (overdue 1 select (withTester (awaiting false))).tester 1 = tester ∧
     (overdue 1 select (withTester (awaiting true))).tester 1 = { tester with loadError := true } ∧
     (let s := (preparing settingUp).modTester 1 fun t => { awaiting true t with
        readiness := some { cell := 0, program := prog, plan := .select 0, stage := .select } }
      details (overdue 1 select s) = [[0, 1, 6]])) ∧
    staged (overdue 1 (.slotCommand .load 7 5 1) (staging .load .loading none)) = ([], .idle, [.loadResult, .assignmentCancelled]) ∧
    (let next := some { op := .load, slot := 5, afterOp := true }
     staged (overdue 1 (.slotCommand .verify 7 0 0) (staging .verify .verifying next)) =
       ([.slotCommand .select 0 0 0], .idle, [.verifyResult])) ∧
    (let s := (staging .select .idle (some { op := .verify, slot := 5, afterOp := false })).modTester 1 fun t => { t with
       operation := none, outstanding := some { op := .select, slot := 7, awaited := false } }
     staged (overdue 1 (.slotCommand .select 7 0 0) s) = ([.slotCommand .verify 5 0 0], .verifying, [])) := by decide +kernel

/-- R97, R115: the tester record that retirement leaves: of a TESTER, programs, locks and floor kept, with a SELECT queued and not;
of a HANDLER, the whole. And the trunk, which settles. For RetireStation. -/
theorem witness_retired_records :
    (let x := { tester with
       protectFloor := 3, floorWritten := true, lockOverride := true, loadError := true, selected := some 0
       slots := tester.slots.set 0 { slotOf .verified with locked := true, lastSelected := some 4 } }
     let y := { x with selected := none, slots := x.slots.set 0 { slotOf .stale with locked := true, lastSelected := some 4 } }
     (after (.retireStation 1 2) (undocked.setTester 1 x)).tester 1 = y ∧
     (let s := (undocked.setTester 1 { x with outstanding := some { op := .select, slot := 0, awaited := false } }).modStation 1
        fun z => { z with queue := [.slotCommand .select 0 0 0] }
      (after (.retireStation 1 2) s).tester 1 = y) ∧
     (after (.retireStation 1 1) (undocked.setTester 0 x)).tester 0 = x) ∧
    (after (.retireStation 1 2) { polled 1 undocked with stations := State.reset.stations.set 1 (online .tester) }).trunk 0 =
      { position := none, gap := none
        outstanding := some { place := 1, windowMs := 8, frame := [], abandoned := true } } := by decide +kernel

/-- For LocksAndFlagsAreWritten. -/
theorem witness_locks :
    said (after (.qualifySlot 1 2 0) bench) = some [0] ∧ said (after (.qualifySlot 1 2 7) bench) = some [9] ∧
    said (after (.qualifySlot 1 2 0) (after (.qualifySlot 1 2 0) bench)) = some [31] ∧
    said (after (.setLockOverride 1 2 9) bench) = some [0, 1] ∧
    said (after (.setLockOverride 1 2 9) (withTester fun t => { t with opState := .purging })) = some [19] ∧
    said (after (.setProtectFloor 1 2 9) bench) = some [0, 8] ∧ said (after (.setProtectFloor 1 2 8) bench) = some [0, 8] ∧
    said (after (.setProtectFloor 1 2 0) (after (.setProtectFloor 1 2 9) bench)) = some [10] ∧
    said (after (.clearTesterErrors 1 2) bench) = some [31] ∧
    said (after (.clearTesterErrors 1 2) (withTester fun t => { t with loadError := true })) = some [0, 1, 0] := by decide +kernel

/-- For CellsAndTestersAreRead. -/
theorem witness_cells_testers_read :
    said (after (.readCell 1 15) bench) = some (0 :: List.replicate 41 0) ∧
    (said (after (.readCell 1 0) bench)).map (fun p => p.take 12) = some [0, 1, 0, 1, 2, 1, 2, 2, 3, 1, 0, 250] ∧
    said (after (.readCell 1 16) bench) = some [5] ∧ said (after (.dockCell 1 16 1 2) bench) = some [5] ∧
    (said (after (.readTester 1 2) bench)).map (fun p => p.take 12) = some [0, 1, 2, 0, 0, 0, 0, 0, 0, 0, 8, 0] := by
  decide +kernel

/-- Replies in which every field is present. For CellsAndTestersAreRead. -/
theorem witness_full_cell_and_tester :
    said (after (.readCell 1 0) (preparing { settingUp with soakStart := some 0x01020304 } fun x =>
      { x with insertion := some 9, phaseDeadline := some { start := 2, span := 3 } })) =
      some [0, 3, 0, 1, 2, 1, 2, 2, 3, 1, 0, 250, 1, 0, 250, 0, 0, 0, 0, 0, 0, 1, 0, 0, 0, 5, 1, 0, 0, 1, 1, 2, 3, 4, 1, 0, 9,
        1, 0, 0, 0, 5] ∧
    bench.TesterAlias 2 1 ∧
    (said (after (.readTester 1 2) (withTester fun t => { t with
        opState := .purging, selected := some 7, outstanding := some { op := .erase, slot := 3, awaited := true }
        next := some { op := .select, slot := 0, afterOp := true }
        operation := some { slot := 3, origin := .dispatch, reported := true, members := 1, expected := prog, erased := 2
                            handled := none } }))).map (fun p => p.take 34) =
      some [0, 1, 2, 4, 3, 1, 2, 0, 0, 0, 8, 0, 1, 7, 1, 0x42, 1, 0x44, 0, 0, 0, 3, 1, 0, 5, 1, 1, 1, 0, 0, 0, 9, 0, 0] := by
  refine ⟨by decide +kernel, ⟨⟨{ number := 2, members := [1], answering := 1 }, ?_, rfl⟩, ?_⟩, ?_⟩ <;> decide +kernel

/-! ### Chapters 7 to 11 -/

/-- Section 7.9's kind of evaluation: a lone lot, the program verified and the bay at temperature, then a kit swap. For CandidatesAreArbitrated and EvaluationAssigns. -/
theorem witness_evaluation :
    bench.bestCell (route 10) (allCells.filter bench.dispatchable) = some { cell := 0, cls := 0, distance := 0 } ∧
    bench.evalOrder = [lot] ∧ bench.dispatchable 0 = true ∧ bench.dispatchable 1 = false ∧
    (bench.setCell 0 { bay with dock := some { dock with recovery := 1 } }).dispatchable 0 = false ∧
    news (after .dispatchEvaluation bench) = [.assigned] ∧ ((after .dispatchEvaluation bench).cell 0).state = .preparing ∧
    ((after .dispatchEvaluation bench).station 1).queue = [.slotCommand .select 0 0 0] ∧
    (let s := bench.setCell 0 { bay with dock := some { dock with kit := 2 } }
     s.bestCell (route 10) (allCells.filter s.dispatchable) = some { cell := 0, cls := 3, distance := 0 } ∧
       news (after .dispatchEvaluation s) = [.assigned, .kitNeeded] ∧ ((after .dispatchEvaluation s).cell 0).state = .setup) ∧
    (let s := bench.setCell 0 { bay with state := .faulted }
     after .dispatchEvaluation s = { s with evalPending := false }) := by decide +kernel

/-- The floor with two lots in the queue, 5 at the head and 6, and its cell, tester and head lot changed. -/
def twoLots (f : Lot → Lot) (g : Cell → Cell) (h : Tester → Tester) : State :=
  { bench with
    lots := [f lot, { lot with number := 6, stamp := 2 }], dispatchQueue := [5, 6], nextStamp := 3
    cells := bench.cells.set 0 (g bay), testers := bench.testers.set 1 (h tester) }

/-- An evaluation puts a lot to work on cell 0 and leaves the queue and the commands queued at the handler and the tester. -/
def walks (s : State) (lot : LotNo) (queue : List LotNo) (handler tester : List Command) : Bool :=
  let v := after .dispatchEvaluation s
  (v.cell 0).work.map (fun w => w.lot) == some lot && v.dispatchQueue == queue && (v.station 0).queue == handler &&
    (v.station 1).queue == tester

/-- A cell of another kit, a lot of another program, a tester that takes no load, a cell at another setpoint. -/
def swap (x : Cell) : Cell := { x with dock := some { dock with kit := 2 } }
def odd (l : Lot) : Lot :=
  { l with snapshot := { version with steps := [{ route 10 with program := { prog with check := 8 } }, route 0] } }
def closed (t : Tester) : Tester := { t with loadError := true }
def hot (x : Cell) : Cell := { x with commanded := some 300 }

/-- Two candidates: a taken cell is offered no more; the head alone takes a class-3 cell, and no one where it is skipped. For
EvaluationAssigns. -/
theorem witness_walk :
    walks (twoLots id id id) 5 [6] [] [.slotCommand .select 0 0 0] = true ∧
    walks (twoLots id swap id) 5 [6] [] [] = true ∧
    walks (twoLots odd id closed) 6 [5] [] [.slotCommand .select 0 0 0] = true ∧
    after .dispatchEvaluation (twoLots odd swap closed) = { twoLots odd swap closed with evalPending := false } := by
  decide +kernel

/-- The setpoint and the first command of the plan where a cell enters PREPARING, by an assignment and by a KIT report. For
EvaluationAssigns and TimersAreTaken. -/
theorem witness_preparation :
    walks (twoLots id hot id) 5 [6] [.setSetpoint 0 250] [.slotCommand .select 0 0 0] = true ∧
    walks (twoLots id id fun t => { t with slots := t.slots.set 0 (slotOf .stale) }) 5 [6] []
      [.slotCommand .verify 0 0 0] = true ∧
    walks (twoLots id id fun t => { t with slots := Tester.reset.slots }) 5 [6] [] [.slotCommand .load 0 5 1] = true ∧
    walks (twoLots id id fun t => { t with slots := Vector.replicate 8 (slotOf .fault) }) 5 [6] []
      [.slotCommand .erase 0 0 0] = true ∧
    walks (twoLots id id fun t => { t with outstanding := some { op := .select, slot := 7, awaited := false } }) 5 [6] []
      [] = true := by
  decide +kernel

/-- A SET SETPOINT that is refused at once, and a KIT report that ends SETUP. For EvaluationAssigns and TimersAreTaken. -/
theorem witness_preparation_refused :
    (let v := after .dispatchEvaluation ((twoLots id hot id).modStation 0 fun x => { x with queue := [.setSetpoint 7 90] })
     v.cell 0 = { bay with commanded := none, dock := some { dock with recovery := 300 } } ∧
       news v = [.assigned, .assignmentCancelled]) ∧
    (let v := told 0 0 [0x11, 3] (polled 0 (atWork .setup .assigned hot))
     (v.cell 0).state = .preparing ∧ (v.station 0).queue = [.setSetpoint 0 250] ∧
       (v.station 1).queue = [.slotCommand .select 0 0 0]) := by decide +kernel

/-- The plans of R111, row by row, and the three components of the changeover class. For CandidatesAreArbitrated. -/
theorem witness_plans_and_classes :
    tester.plan prog 0 = some (.select 0) ∧
    (let bare := { tester with slots := Tester.reset.slots }
     bare.plan prog 0 = some (.load 0) ∧ { bare with eraseError := true }.plan prog 0 = none) ∧
    (let two := { tester with slots := (tester.slots.set 1 (slotOf .stale)).set 2 (slotOf .verified) }
     { two with selected := some 2 }.plan prog 0 = some (.select 2) ∧ { two with selected := some 1 }.plan prog 0 = some (.select 0) ∧
       { two with slots := (two.slots.set 0 (slotOf .stale)).set 2 (slotOf .fault) }.plan prog 0 = some (.verify 0)) ∧
    (let full := { tester with slots := Vector.replicate 8 { slotOf .fault with lastSelected := some 3 } }
     full.plan prog 9 = some (.eraseLoad 0) ∧ { full with selected := some 0 }.plan prog 9 = some (.eraseLoad 1) ∧
       { full with slots := full.slots.set 7 { slotOf .fault with lastSelected := some 2 } }.plan prog 9 = some (.eraseLoad 7) ∧
       { full with slots := full.slots.set 6 (slotOf .fault) }.plan prog 9 = some (.eraseLoad 6) ∧
       { full with protectFloor := 0 }.plan prog 9 = none) ∧
    bench.changeover 0 (route 10) = some 0 ∧ bench.changeover 0 { route 10 with setpoint := 301 } = some 1 ∧
    bench.changeover 0 { route 10 with program := { prog with check := 8 } } = some 2 ∧
    bench.changeover 0 { route 10 with kit := 4 } = some 3 ∧ bench.changeover 1 (route 10) = none := by decide +kernel

/-- For QueuesAndRecordsAreRead. -/
theorem witness_queues_read :
    said (after (.readQueue 1) bench) =
      some [0, 0, 0, 0, 0, 1, 0x46, 0x50, 4, 1, 0, 0, 0, 5, 1, 2, 2, 0, 0, 0, 1, 0, 0, 0, 0] ∧
    said (after (.readReleaseQueue 1)
      { withLot (fun l => { l with
          state := .released, shipQuantity := some 258
          release := some { tick := 3, shipQuantity := 258, yields := [] } }) with releaseQueue := [5] }) =
      some [0, 1, 0, 0, 0, 5, 0, 7, 0, 0, 1, 2, 0, 0, 0, 3] ∧
    (said (after (.readInsertion 1 5 1) bench)).map (fun p => p.take 7) = some [0, 0, 1, 0, 0, 0, 100] ∧
    said (after (.readInsertion 1 5 0) bench) = some [5] ∧ said (after (.readInsertion 1 5 3) bench) = some [5] ∧
    said (after (.readHolds 1 5) (withLot fun l => { l with holds := [{ hold .binLimit with bins := [2, 9] }] })) =
      some [0, 1, 1, 0, 1, 9, 1, 0, 0, 0, 0, 2, 2, 9, 0] := by decide +kernel

/-- A tally of three devices in bin 1, the good bin, and four in bin 2. -/
def incs : List Nat := [0, 3, 4, 0, 0, 0, 0, 0, 0, 0, 0, 0, 0, 0, 0, 0]

/-- For TalliesAreCounted. -/
theorem witness_tallies :
    (running .running).takeTally 5 255 incs = running .running ∧
    (((running .running).takeTally 5 0 incs).lot? 5).map (fun l => l.current.map fun r => (r.tested, r.good, r.lastSeq)) =
      some (some (7, 3, 0)) ∧
    ((running .running).takeTally 5 0 incs).events.length = 1 ∧
    (let v := (running .running).takeTally 5 3 incs
     ((v.events.drop 1).head?.map fun e => (e.kind, e.detail)) = some (.finding, [1, 6, 3, 0, 3, 0, 0, 0]) ∧
       (v.lot? 5).map (fun l => (l.holds.map fun h => h.cause, l.current.map fun r => (r.tested, r.lastSeq))) =
         some ([.tallyGap], some (7, 3))) ∧
    (let s := (running .running).modLot 5 fun l => l.modCurrent fun r => { r with tested := 16777210 }
     ((s.takeTally 5 0 incs).lot? 5).map (fun l => l.current.map fun r => (r.tested, r.lastSeq)) =
       some (some (16777210, 0))) := by decide +kernel

/-- Three devices in bin 1 and four in bin 2, packed as Section 1.9 gives it. -/
def packed : List Byte := [0, 0, 3, 0, 0x40] ++ List.replicate 19 0

/-- The floor with the lot RUNNING and its record at a count, at a step of its two. -/
def counted (good tested step : Nat) : State :=
  (running .running).modLot 5 fun l =>
    let r := { Insertion.new (some 100) with
      outcome := .running, number := some 9, segments := 1, tested := tested, good := good, extremes := some (240, 260) }
    { l with currentStep := step, records := if step = 1 then [r, Insertion.new none] else [Insertion.new (some 100), r] }

/-- An END with a final sequence closes the record of a step so that the lot's state, step and causes and the record's
outcome are those given. -/
def closes (step : Nat) (final : Byte) (s : State) (state : LotState) (current : Nat) (causes : List Cause)
    (outcome : InsOutcome) : Bool :=
  ((told 0 0 [0x15, 0, 9, final, 0] (polled 0 s)).lot? 5).any fun l =>
    l.state == state && l.currentStep == current && l.holds.map (fun h => h.cause) == causes &&
      (l.recordAt step).any fun r => r.outcome == outcome

/-- A TALLY of the running segment and a stray one, and TEMP samples at the edge of the band and past it. For TalliesAreCounted. -/
theorem witness_tally_reports :
    unpackIncrements packed = incs ∧
    (let s := polled 0 (running .running)
     answersTo 0 0 ([0x14, 0, 9, 0] ++ packed) s (s.takeTally 5 0 incs) = true ∧
       ((told 0 0 ([0x14, 0, 8, 0] ++ packed) s).events.drop 1).map (fun e => (e.kind, e.detail)) =
         [(.strayReport, [0x14, 0, 8])] ∧
       (((told 0 0 ([0x12] ++ i16 300) s).lot? 5).bind fun l => l.current.map fun r => r.extremes) = some (some (300, 300)) ∧
       news (told 0 0 ([0x12] ++ i16 300) s) = [] ∧
       news (told 0 0 ([0x12] ++ i16 301) s) = [.finding, .holdRaised]) := by decide +kernel

/-- ENDs that close complete: clean at the first step and at the last, and held for each cause. For TalliesAreCounted. -/
theorem witness_ends :
    closes 1 255 (counted 100 100 1) .waiting 2 [] .completeClean = true ∧
    (let v := told 0 0 [0x15, 0, 9, 255, 0] (polled 0 (counted 100 100 1))
     news v = [.insertionClosed] ∧ v.dispatchQueue = [5] ∧
       (v.product? 7).map (fun e => e.baselines.map fun b => b.count) = some [1, 0]) ∧
    closes 2 255 (counted 100 100 2) .complete 2 [] .completeClean = true ∧
    news (told 0 0 [0x15, 0, 9, 255, 0] (polled 0 (counted 100 100 2))) = [.insertionClosed, .lotComplete] ∧
    closes 1 3 (counted 100 100 1) .waiting 1 [.tallyGap] .completeHeld = true ∧
    closes 1 255 (counted 80 100 1) .waiting 1 [.yieldLow] .completeHeld = true ∧
    closes 1 255 (counted 98 98 1) .waiting 1 [.countShort] .completeHeld = true ∧
    closes 1 255 (counted 101 101 1) .waiting 1 [.countOver] .completeHeld = true := by decide +kernel

/-- The lot RUNNING under a learned baseline whose values stand at the margin of its bins. -/
def learnt (floor : Nat) : State :=
  let v := { version with yieldFloor := floor }
  let b : Baseline := { values := Vector.replicate 16 0, count := 2 }
  { (running .running).modLot 5 fun l => { l with snapshot := v } with
    catalog := [{ product with active := some v, baselines := [b, Baseline.zero] }] }

/-- The causes and bins of the findings of the lot's current record after a tally of bin 1, the good bin, and bin 2. -/
def foundBy (good fails : Nat) (s : State) : Option (List (Cause × List Nat)) :=
  ((s.takeTally 5 0 ([0, good, fails] ++ List.replicate 13 0)).lot? 5).bind fun l =>
    l.current.map fun r => r.findings.map fun f => (f.cause, f.bins.map fun b => b.val)

/-- R151, R152: the running checks at the sample minimum 10 and just below it, with the baseline learned and not. For TalliesAreCounted. -/
theorem witness_checks :
    foundBy 8 2 (learnt 8001) = some [(.binLimit, [2]), (.yieldLow, [])] ∧
    (((learnt 8001).takeTally 5 0 ([0, 8, 2] ++ List.replicate 13 0)).events.drop 1).map (fun e => (e.kind, e.detail[1]?)) =
      [(.finding, some 10), (.holdRaised, some 1), (.finding, some 9), (.holdRaised, some 1)] ∧
    foundBy 8 2 (learnt 8000) = some [(.binLimit, [2])] ∧
    foundBy 7 2 (learnt 8001) = some [] ∧ foundBy 8 2 (running .running) = some [(.yieldLow, [])] ∧
    foundBy 10 0 (learnt 9000) = some [] := by decide +kernel

/-- R152 at the sample minimum and the learned minimum, and just below each. For TalliesAreCounted. -/
theorem witness_bin_limit :
    BinLimitTrips version { values := Vector.replicate 16 0, count := 2 } 10 ((Vector.replicate 16 0).set 2 2) ∧
    ¬ BinLimitTrips version { values := Vector.replicate 16 0, count := 1 } 10 ((Vector.replicate 16 0).set 2 2) ∧
    ¬ BinLimitTrips version { values := Vector.replicate 16 0, count := 2 } 9 ((Vector.replicate 16 0).set 2 2) := by
  refine ⟨⟨by decide, by decide, by decide, 2, by decide +kernel⟩, fun h => ?_, fun h => ?_⟩
  · exact absurd h.2.2.1 (by decide)
  · exact absurd h.2.1 (by decide)

/-- For LimitsAndLearning. -/
theorem witness_limits :
    yieldOf 1 3 = 3333 ∧ fractionOf 1 3 = 21845 ∧ limitOf 100 50 16 = 200 ∧ limitOf 65000 600 0 = 65536 ∧
    limitOf 100 150 16 = 250 ∧ limitOf 65000 536 0 = 65536 ∧ limitOf 65000 535 0 = 65535 ∧
    moveValue 3 100 107 = 100 ∧ moveValue 3 107 100 = 107 ∧ moveValue 3 100 108 = 101 ∧ moveValue 3 108 100 = 107 ∧
    Baseline.zero.InRange := by decide +kernel

/-- For HoldLot. -/
theorem witness_hold :
    said (after (.holdLot 1 5) (withLot fun l => { l with state := .shipped })) = some [9] ∧
    said (after (.holdLot 1 5) (withLot fun l => { l with holds := [hold .operator] })) = some [31] ∧
    said (after (.holdLot 1 5) bench) = some [0, 1, 1, 1] ∧ (after (.holdLot 1 5) bench).dispatchQueue = [] ∧
    (let s := atWork .preparing .assigned
     said (after (.holdLot 1 5) s) = some [0, 1, 1, 1] ∧ news (after (.holdLot 1 5) s) = [.holdRaised, .assignmentCancelled]) ∧
    (let s := running .running
     said (after (.holdLot 1 5) s) = some [0, 1, 1, 3] ∧ ((after (.holdLot 1 5) s).station 0).queue = [.stopSegment 9] ∧
       ((after (.holdLot 1 5) s).cell 0).state = .stopping) ∧
    said (after (.holdLot 1 5) (running .stopping)) = some [0, 1, 1, 3] ∧
    (let s := { withLot (fun l => { l with state := .released }) with dispatchQueue := [], releaseQueue := [4, 5, 6] }
     said (after (.holdLot 1 5) s) = some [0, 1, 1, 4] ∧ (after (.holdLot 1 5) s).releaseQueue = [4, 6] ∧
       news (after (.holdLot 1 5) s) = [.holdRaised, .recalled]) := by decide +kernel

/-- The lot held with a closed record of an outcome. -/
def heldLot (outcome : InsOutcome) (retests : Nat) (holds : List Hold) : State :=
  { withLot (fun l => { l with
      holds := holds
      records := [{ Insertion.new (some 100) with outcome := outcome, tested := 90, good := 80, retests := retests },
        Insertion.new none] }) with dispatchQueue := [] }

/-- For Dispose. -/
theorem witness_dispose :
    said (after (.dispose 1 5 11 1) bench) = some [5] ∧ said (after (.dispose 1 5 1 5) bench) = some [5] ∧
    said (after (.dispose 1 5 9 1) (running .running)) = some [9] ∧ said (after (.dispose 1 5 9 1) bench) = some [6] ∧
    said (after (.dispose 1 5 1 2) (heldLot .completeHeld 0 [hold .operator])) = some [9] ∧
    said (after (.dispose 1 5 9 3) (heldLot .completeHeld 2 [hold .binLimit])) = some [25] ∧
    said (after (.dispose 1 5 9 3) (heldLot .completeHeld 1 [hold .operator, hold .binLimit])) = some [0, 1, 1, 1, 1] ∧
    said (after (.dispose 1 5 9 4) (heldLot .completeHeld 2 [hold .operator, hold .binLimit])) = some [0, 0, 0, 7, 1] ∧
    said (after (.dispose 1 5 9 1) (heldLot .completeHeld 2 [hold .binLimit])) = some [0, 0, 0, 1, 2] ∧
    (after (.dispose 1 5 9 2) (heldLot .partialHeld 2 [hold .binLimit])).dispatchQueue = [5] ∧
    (((after (.dispose 1 5 9 1) (heldLot .completeHeld 2 [hold .binLimit])).lot? 5).map fun l =>
      (l.stamp, l.records.map fun r => r.input)) = some (2, [some 100, some 80]) := by decide +kernel

/-- The lot COMPLETE at its last step with a ship quantity. -/
def complete (f : Lot → Lot) : State :=
  { withLot (fun l => f { l with state := .complete, currentStep := 2, shipQuantity := some 70 }) with dispatchQueue := [] }

/-- For ReleaseLot. -/
theorem witness_release :
    ((after (.releaseLot 1 0 77) bench).events.drop 1).map (fun e => (e.kind, e.detail.take 2)) =
      [(.releaseRefused, [5, 0])] ∧
    said (after (.releaseLot 1 5 77) bench) = some [9] ∧
    said (after (.releaseLot 1 5 77) (complete fun l => { l with holds := [hold .binLimit] })) = some [24, 9] ∧
    said (after (.releaseLot 1 5 77) (complete fun l => { l with shipQuantity := some 0 })) = some [28] ∧
    said (after (.releaseLot 1 5 77) (complete fun l => { l with snapshot := { version with requireLearned := true } })) =
      some [27, 1] ∧
    (let s := { complete fun l => { l with snapshot := { version with requireLearned := true } } with
       catalog := [{ product with baselines := [{ Baseline.zero with count := 2 }, { Baseline.zero with count := 1 }] }] }
     said (after (.releaseLot 1 5 77) s) = some [27, 2] ∧
     said (after (.releaseLot 1 5 77) { s with catalog := [{ product with
       baselines := [{ Baseline.zero with count := 2 }, { Baseline.zero with count := 2 }] }] }) = some [0, 1, 0, 0, 0, 70] ∧
     said (after (.releaseLot 1 5 77) { s with catalog := [{ product with
       revision := 2, baselines := [{ Baseline.zero with count := 2 }, { Baseline.zero with count := 2 }] }] }) =
       some [27, 1]) ∧
    said (after (.releaseLot 1 5 78) (complete id)) = some [26, 1] ∧
    said (after (.releaseLot 1 5 78) (complete fun l => { l with attempts := 2 })) = some [26, 3] ∧
    news (after (.releaseLot 1 5 78) (complete fun l => { l with attempts := 2 })) = [.holdRaised] ∧
    said (after (.releaseLot 1 5 77) { complete id with releaseQueue := List.replicate 16 8 }) = some [29] ∧
    said (after (.releaseLot 1 5 77) { complete id with releaseQueue := List.replicate 15 8 }) = some [0, 16, 0, 0, 0, 70] ∧
    said (after (.releaseLot 1 5 78) (complete fun l => { l with ticket := 0 })) = some [0, 1, 0, 0, 0, 70] := by decide +kernel

/-- For ShipConfirm. -/
theorem witness_ship :
    (let s := withLot fun l => { l with state := .released, shipQuantity := some 70 }
     said (after (.shipConfirm 1 5) s) = some [9] ∧
     said (after (.shipConfirm 1 5) { s with releaseQueue := [6, 5] }) = some [30, 0, 0, 0, 6] ∧
     said (after (.shipConfirm 1 5) { s with releaseQueue := [5, 6] }) = some [0, 1] ∧
     news (after (.shipConfirm 1 5) { s with releaseQueue := [5, 6] }) = [.shipped] ∧
     ((after (.shipConfirm 1 5) { s with releaseQueue := [5, 6] }).lot? 5).map (fun l => l.state) = some .shipped) := by
  decide +kernel

/-! ### Whole-part statements -/

/-- The bounds, ranges and accounts hold of the floor with a command waiting, and a step of it goes on. For BoundsAreKept, FieldsStayInRange and AccountsAndBaselinesAreKept. -/
theorem witness_invariants :
    bench.LinkBounded ∧ bench.TablesBounded ∧ bench.Accounted ∧ bench.Learned ∧ bench.AttemptsBounded ∧
      bench.committed = true ∧ goesOn (.holdLot 1 5) bench = true := by decide +kernel

/-- For FieldsStayInRange. -/
theorem witness_ranges : bench.FieldsInRange := by
  refine ⟨by decide +kernel, ?_, by decide +kernel, by decide +kernel, by decide +kernel, by decide +kernel, by decide +kernel⟩
  have h : ∀ c : CellNo, ((bench.cell c).dock.all fun d => decide (d.recovery ≤ 6000)) = true := by decide +kernel
  intro c d hd
  have := h c
  rw [hd] at this
  simpa using this

/-- For QueuesAreKept. -/
theorem witness_queues_kept : bench.QueuesKept := by decide +kernel

/-- One other state that meets the hypotheses of the statement on final lots: a floor with a SHIPPED lot alone. -/
def shippedOnly : State := { State.reset with lots := [{ lot with state := .shipped }] }

/-- For LotsAndCellsStayLinked. -/
theorem witness_linked : shippedOnly.Linked := by
  refine ⟨by decide +kernel, by decide +kernel, ?_, ?_, by decide +kernel, ⟨by decide +kernel, ?_, ?_⟩, by decide +kernel, ?_⟩
  · have h : ∀ c : CellNo, (shippedOnly.cell c).work = none ∧ (shippedOnly.cell c).state = .empty ∧
        (shippedOnly.cell c).dock = none := by decide +kernel
    intro c
    obtain ⟨h1, h2, h3⟩ := h c
    simp [h1, h2, h3, CellState.working]
  · have h : ∀ l ∈ shippedOnly.lots, l.cell = none ∧ l.state.onCell = false := by decide +kernel
    intro l hl
    obtain ⟨h1, h2⟩ := h l hl
    simp [h1, h2]
  · intro n hn; cases hn
  · intro l hl hr
    have h : ∀ l ∈ shippedOnly.lots, l.state = .shipped := by decide +kernel
    rw [h l hl] at hr
    cases hr
  · intro e he; cases he

/-- For FinalLotsStay. -/
theorem witness_final_lot :
    { lot with state := .shipped } ∈ shippedOnly.lots ∧ goesOn (.holdLot 1 5) shippedOnly = true ∧
      { lot with state := .shipped } ∈ (after (.holdLot 1 5) shippedOnly).lots := by decide +kernel

/-- For WrittenOnceStays. -/
theorem witness_written_once :
    goesOn (.holdLot 1 5) bench = true ∧ (bench.cell 0).dock = some dock ∧
      (withTester fun t => { t with floorWritten := true }).tester 1 = { tester with floorWritten := true } := by decide +kernel

/-- For TicketsAreNotShown. -/
theorem witness_tickets : (withLot id).SameButTickets (withLot fun l => { l with ticket := 78 }) := by
  refine ⟨by decide +kernel, List.Forall₂.cons ⟨by decide +kernel, by decide +kernel⟩ List.Forall₂.nil⟩

/-- Commands that change the two states alike. For TicketsAreNotShown. -/
theorem witness_tickets_unread :
    (let t := withLot fun l => { l with ticket := 78 }
     ∀ i ∈ ([.readLot 1 5 0, .holdLot 1 5, .dispatchEvaluation] : List Instr),
       goesOn i bench = true ∧ goesOn i t = true ∧ (after i bench).replies = (after i t).replies ∧
         (after i bench).events = (after i t).events ∧ after i bench ≠ bench) := by decide +kernel

end Sys2Proof.Tests
end

section
/-! SUPPORT. The requests of Chapter 1 that end OK: the event queue, the attention enables and the floor policy. -/

namespace Sys2Proof.Proofs

open Sys2Proof Sys2Proof.Machine

/-! ### Requests that are answered OK -/

/-- R3, R4: the reply kind of a request whose kind is below 0x80. -/
theorem replyKind_kindOf {i : Instr} {k : Byte} (hi : i.requestKind = some k) (hk : k.toNat < 0x80) :
    replyKind (kindOf i) = k + 0x80 := by
  have : kindOf i = k := by simp [kindOf, hi]
  rw [this, replyKind_of_lt hk]

/-- R4: a request accepted by its block leaves the block's state with one reply more, the status OK before its fields. -/
theorem serve_accepted {s u : State} (h : s.Listening) (i : Instr) {k : Byte} (hi : i.requestKind = some k)
    (hk : k.toNat < 0x80) (tag : Byte) {service : Service} {fields : List Byte} (hs : service s = accept u fields)
    (hu : u.serving = s.serving) : serve i tag service s = .next (u.replied (k + 0x80) tag ([0] ++ fields)) := by
  have hidle : ({ u with serving := none } : State) = u := by rw [← h.2.1, ← hu]
  rw [serve_of_listening h, hs, replyKind_kindOf hi hk]
  simp only [accept, hidle]
  rfl

/-! ### The requests' arms -/

theorem exec_fetchEvents (tag : Byte) (s : State) :
    exec (.fetchEvents tag) s = serve (.fetchEvents tag) tag serveFetchEvents s := rfl

theorem exec_setAttention (tag : Byte) (f : Vector Byte 7) (s : State) :
    exec (.setAttention tag f) s = serve (.setAttention tag f) tag (serveSetAttention f) s := rfl

theorem exec_setPolicy (tag : Byte) (f : RawPolicy) (s : State) :
    exec (.setPolicy tag f) s = serve (.setPolicy tag f) tag (serveSetPolicy f) s := rfl

/-! ### Yes/no fields -/

theorem isYes_eq_decide (b : Byte) : isYes b = decide (b ≠ 0) := by
  rw [Bool.eq_iff_iff]; simp [isYes]

theorem yesNo_eq (b : Bool) : yesNo b = [if b then 1 else 0] := by cases b <;> rfl

/-- A yes/no field is echoed as 1 for any value that is not 0. -/
theorem yesNo_isYes (b : Byte) : yesNo (isYes b) = [if b = 0 then 0 else 1] := by
  by_cases h : b = 0 <;> simp [yesNo_eq, isYes, h]

/-! ### Event records (R9) -/

/-- The codes that the model writes for an event kind are those of the event kinds table. -/
theorem eventCodes_eq (k : EventKind) :
    eventCodes k = (BitVec.ofNat 8 k.cls.code, BitVec.ofNat 8 k.classCode.2) := by cases k <;> rfl

theorem eventBytes_eq :
    Event.bytes = fun e => [(eventCodes e.kind).1, (eventCodes e.kind).2] ++ u32 e.tick.toNat ++ u32 e.subject.toNat ++
      u8 e.detail.length ++ e.detail := by
  funext e
  rw [eventCodes_eq]; rfl

theorem serveFetchEvents_eq (s : State) :
    serveFetchEvents s = accept { s with events := s.events.drop 8, discards := 0 }
      (u8 s.discards ++ u8 (s.events.length - 8) ++ u8 (min 8 s.events.length) ++
        (s.events.take 8).flatMap fun (e : Event) =>
          [(eventCodes e.kind).1, (eventCodes e.kind).2] ++ u32 e.tick.toNat ++ u32 e.subject.toNat ++
            u8 e.detail.length ++ e.detail) := by
  simp only [serveFetchEvents, Config.fetchMax, List.length_drop, List.length_take, eventBytes_eq]

/-! ### Pending classes and enables (R10, R11) -/

/-- The codes of the event classes differ. -/
theorem classCode_byte_inj {c d : EventClass} : (BitVec.ofNat 8 c.code = BitVec.ofNat 8 d.code) ↔ c = d := by
  cases c <;> cases d <;> decide

/-- R11: the byte that tells whether a class is pending asks for a record with the code of the class. -/
theorem yesNo_classPending (s : State) (c : EventClass) :
    yesNo (s.classPending c) = [if ∃ e ∈ s.events, (eventCodes e.kind).1 = BitVec.ofNat 8 c.code then 1 else 0] := by
  simp [yesNo_eq, State.classPending, eventCodes_eq, classCode_byte_inj]

theorem pendingBytes_eq (s : State) :
    (allClasses.flatMap fun c => yesNo (s.classPending c)) =
      ([1, 2, 3, 4, 5, 6] : List Byte).map fun k => if ∃ e ∈ s.events, (eventCodes e.kind).1 = k then 1 else 0 := by
  simp only [yesNo_classPending]
  rfl

theorem toList_seven {α : Type} (f : Vector α 7) : f.toList = [f[0], f[1], f[2], f[3], f[4], f[5], f[6]] := by
  apply List.ext_getElem
  · simp
  · intro i hi _
    have : i < 7 := by simpa using hi
    interval_cases i <;> simp

/-- R11: the seven enables are echoed as stored, in the order in which they came. -/
theorem enableBytes_eq (f : Vector Byte 7) :
    yesNo (Attention.ofFields f).master ++ (allClasses.flatMap fun c => yesNo ((Attention.ofFields f).enabled c)) =
      f.toList.map fun x => if x = 0 then 0 else 1 := by
  simp [toList_seven, allClasses, Attention.ofFields, Attention.enabled, yesNo_isYes]

theorem attentionOfFields_eq (f : Vector Byte 7) :
    Attention.ofFields f =
      { master := decide (f[0] ≠ 0), part := decide (f[1] ≠ 0), station := decide (f[2] ≠ 0), cell := decide (f[3] ≠ 0)
        tester := decide (f[4] ≠ 0), lot := decide (f[5] ≠ 0), release := decide (f[6] ≠ 0) } := by
  simp only [Attention.ofFields, isYes_eq_decide]

theorem serveSetAttention_eq (f : Vector Byte 7) (s : State) :
    serveSetAttention f s = accept { s with attention := Attention.ofFields f }
      ((f.toList.map fun x => if x = 0 then 0 else 1) ++
        ([1, 2, 3, 4, 5, 6] : List Byte).map fun k =>
          if ∃ e ∈ s.events, (eventCodes e.kind).1 = k then 1 else 0) := by
  rw [serveSetAttention, enableBytes_eq, pendingBytes_eq]

/-- Settles O11: each of the two requests is accepted, with the fields that the table and the enables spell. -/
theorem eventsAndAttention : Obligations.EventsAndAttention := by
  refine ⟨fun tag s h => ?_, fun tag f s h => ?_⟩
  · rw [exec_fetchEvents]
    exact serve_accepted h (.fetchEvents tag) rfl (by decide) tag (serveFetchEvents_eq s) rfl
  · rw [exec_setAttention, ← attentionOfFields_eq]
    exact serve_accepted h (.setAttention tag f) rfl (by decide) tag (serveSetAttention_eq f s) rfl

/-! ### The floor policy (R13) -/

/-- R13: over a range that is not empty, the nearer end is the maximum with the lower end of the minimum with the upper. -/
theorem clampNat_eq {lo hi : Nat} (h : lo ≤ hi) (n : Nat) : clampNat lo hi n = max lo (min hi n) := by
  unfold clampNat
  split
  · omega
  · split <;> omega

/-- R13: a field whose range starts at 0 has no lower end to meet. -/
theorem clampNat_zero (hi n : Nat) : clampNat 0 hi n = min hi n := by
  rw [clampNat_eq (Nat.zero_le hi), Nat.zero_max]

theorem policyOfRaw_eq (f : RawPolicy) :
    Policy.ofRaw f =
      { lookahead := max 1 (min 8 f.lookahead.toNat), ageStep := f.ageStep.toNat
        setupTimeout := max 100 (min 36000 f.setupTimeout.toNat), commandTimeout := max 5 (min 600 f.commandTimeout.toNat)
        loadTimeout := max 100 (min 36000 f.loadTimeout.toNat), stopTimeout := max 10 (min 6000 f.stopTimeout.toNat)
        recoveryTime := min 6000 f.recoveryTime.toNat, answerWindow := max 1 (min 50 f.answerWindow.toNat)
        roundGap := min 100 f.roundGap.toNat, openPass := decide (f.openPass ≠ 0) } := by
  have hage : min 65535 f.ageStep.toNat = f.ageStep.toNat := by omega
  simp only [Policy.ofRaw, clampNat_zero, hage, isYes_eq_decide]
  simp [clampNat_eq]

/-- R13: an OK reply that shows a policy, field by field. -/
theorem okPolicyBytes_eq (p : Policy) :
    [0] ++ p.bytes = [0] ++ u8 p.lookahead ++ u16 p.ageStep ++ u16 p.setupTimeout ++ u16 p.commandTimeout ++
      u16 p.loadTimeout ++ u16 p.stopTimeout ++ u16 p.recoveryTime ++ u8 p.answerWindow ++ u8 p.roundGap ++
      (if p.openPass = true then [1] else [0]) := by
  cases hp : p.openPass <;> simp [Policy.bytes, yesNo_eq, hp]

/-- R13, R15: a committed policy refuses SET POLICY. -/
theorem serveSetPolicy_committed {s : State} (hc : s.committed = true) (f : RawPolicy) :
    serveSetPolicy f s = refuse s .writeOnce := by simp [serveSetPolicy, hc]

theorem serveSetPolicy_open {s : State} (hc : s.committed = false) (f : RawPolicy) :
    serveSetPolicy f s = accept { s with policy := Policy.ofRaw f } (Policy.ofRaw f).bytes := by
  simp [serveSetPolicy, hc]

/-- Settles O13: the committed policy refuses, and an open one is written whole with every field clamped. -/
theorem setPolicyStoresNearestEnds : Obligations.SetPolicyStoresNearestEnds := by
  refine fun tag f s h => ⟨fun hc => ?_, fun hc p hp => ?_⟩
  · rw [exec_setPolicy]
    exact serve_refused h _ tag _ .writeOnce (serveSetPolicy_committed hc f)
  · obtain rfl : p = Policy.ofRaw f := hp.trans (policyOfRaw_eq f).symm
    rw [exec_setPolicy, ← okPolicyBytes_eq]
    exact serve_accepted h (.setPolicy tag f) rfl (by decide) tag (serveSetPolicy_open hc f) rfl

end Sys2Proof.Proofs
end

section
/-! SUPPORT. Enrolment (Chapter 2): what the operands of ENROLL STATION name, and how the request is served. -/

namespace Sys2Proof.Proofs

open Sys2Proof Sys2Proof.Machine

/-! ### The operands of ENROLL STATION (R22) -/

/-- A trunk number and an address in range name the place at their position (Section 2.2). -/
theorem placeNamed_placeOf {trunk address : Byte} {t : TrunkNo} {a : AddrIx} (ht : trunk.toNat = t.val)
    (ha : address.toNat = a.val + 1) : placeNamed trunk address = some (placeOf t a) := by
  have hrange : trunk.toNat < 4 ∧ 1 ≤ address.toNat ∧ address.toNat ≤ 8 := by omega
  rw [placeNamed, dif_pos hrange]
  simp [placeOf, ht, ha]

theorem placeNamed_eq_none {trunk address : Byte} :
    placeNamed trunk address = none ↔ 4 ≤ trunk.toNat ∨ address.toNat < 1 ∨ 8 < address.toNat := by
  unfold placeNamed
  split
  · simp only [reduceCtorEq, false_iff]; omega
  · simp only [true_iff]; omega

@[simp] theorem stationKind_ofCode_code (k : StationKind) : StationKind.ofCode k.code = some k := by cases k <;> rfl

/-- A byte that is the code of neither station kind names none. -/
theorem stationKind_ofCode_eq_none {kind : Byte} (h1 : kind ≠ 1) (h2 : kind ≠ 2) :
    StationKind.ofCode kind.toNat = none := by
  have hcode1 : kind.toNat ≠ 1 := by bv_omega
  have hcode2 : kind.toNat ≠ 2 := by bv_omega
  unfold StationKind.ofCode
  split
  · contradiction
  · contradiction
  · rfl

/-! ### Serving ENROLL STATION (R22) -/

theorem exec_enrollStation (tag trunk address kind : Byte) (s : State) :
    exec (.enrollStation tag trunk address kind) s =
      serve (.enrollStation tag trunk address kind) tag (serveEnrollStation trunk address kind) s := rfl

/-- Operands that name no place are refused RANGE. -/
theorem serveEnrollStation_no_place {trunk address : Byte} (h : placeNamed trunk address = none) (kind : Byte) (s : State) :
    serveEnrollStation trunk address kind s = refuse s .range := by simp [serveEnrollStation, h]

/-- A byte that names no station kind is refused RANGE, whatever the other operands are. -/
theorem serveEnrollStation_no_kind {kind : Byte} (h : StationKind.ofCode kind.toNat = none) (trunk address : Byte) (s : State) :
    serveEnrollStation trunk address kind s = refuse s .range := by simp [serveEnrollStation, h]

theorem serveEnrollStation_range {trunk address kind : Byte}
    (h : 4 ≤ trunk.toNat ∨ address.toNat < 1 ∨ 8 < address.toNat ∨ (kind ≠ 1 ∧ kind ≠ 2)) (s : State) :
    serveEnrollStation trunk address kind s = refuse s .range := by
  have hcases : placeNamed trunk address = none ∨ (kind ≠ 1 ∧ kind ≠ 2) := by rw [placeNamed_eq_none]; tauto
  rcases hcases with hplace | ⟨h1, h2⟩
  · exact serveEnrollStation_no_place hplace kind s
  · exact serveEnrollStation_no_kind (stationKind_ofCode_eq_none h1 h2) trunk address s

/-- A place and a kind that the operands name: what is left to decide is whether the place is ABSENT. -/
theorem serveEnrollStation_named {trunk address kind : Byte} {p : Place} {k : StationKind}
    (hp : placeNamed trunk address = some p) (hk : kind.toNat = k.code) (s : State) :
    serveEnrollStation trunk address kind s =
      if (s.station p).state ≠ .absent then refuse s .exists_
      else accept (s.setStation p (Station.enrol k)) (u8 p.val) := by
  simp [serveEnrollStation, hp, hk]

/-- Settles O21: RANGE for operands that name nothing, EXISTS for a place that is enrolled, and a fresh record for one that is
ABSENT. -/
theorem enrollStation : Obligations.EnrollStation := by
  refine fun tag trunk address kind s h => ⟨fun hrange => ?_, fun t a k ht ha hk => ?_⟩
  · rw [exec_enrollStation]
    exact serve_refused h _ tag _ .range (serveEnrollStation_range hrange s)
  · have hnamed := serveEnrollStation_named (placeNamed_placeOf ht ha) hk s
    rw [exec_enrollStation]
    refine ⟨fun hstate => ?_, fun hstate => ?_⟩
    · rw [if_pos hstate] at hnamed
      exact serve_refused h _ tag _ .exists_ hnamed
    · rw [if_neg (not_not.2 hstate)] at hnamed
      exact serve_accepted h (.enrollStation tag trunk address kind) rfl (by decide) tag hnamed rfl

end Sys2Proof.Proofs
end
